-- ==== Sys2Proof/Word.lean ====
section
/-! DEFINITION. The word types of the Frame Codec. Every value of the spec is an unsigned integer of a stated width
(00_scope.md R6), so each is a bit vector of that width; offsets and lengths are unbounded naturals (R7) and are `Nat`. -/

namespace Sys2Proof

/-- One byte of the frame buffer, of a payload, or of a frame. -/
abbrev Byte := BitVec 8

/-- A 16-bit value: a CRC, a `serviceCommand`, a pipe command word, `STATUS`. -/
abbrev Half := BitVec 16

/-- A 64-bit value: a device identifier, an `ARG` or `RES` register, the data of a host register access. -/
abbrev Word := BitVec 64

end Sys2Proof
end

