-- ==== Sys2Proof/Config.lean ====
section
/-! DEFINITION. The implementation parameters of 00_scope.md R5 and the free values of the model. "A model takes each
one as a configuration argument": every operation that uses one takes a `Config`, and so does the whole machine
(`execWith`, `stepWith`, `coreWith` of Machine/Configured.lean). `exec`, `step` and `core` are that machine at
`Config.spec`, the column "this spec" of R5 (log 6). -/

namespace Sys2Proof

/-- `UNIT_BASE`, OPEN (20_memory.md R61, U17): the spec gives it no value, so this one has no body (log 10). -/
opaque Config.openUnitBase : Nat

/-- `PIPE_SERVICE_INDEX`, OPEN (00_scope.md R5, U18): the spec gives it no value, so this one has no body (log 10). -/
opaque Config.openPipeServiceIndex : Byte

/-- The parameters of 00_scope.md R5, in its order, and `UNIT_BASE` of 20_memory.md R61. -/
structure Config where
  /-- `MAX_PAYLOAD`: largest packet payload, bytes. -/
  maxPayload : Nat
  /-- `HDR_BYTES`: frame header length, bytes. -/
  hdrBytes : Nat
  /-- `REC_HDR_BYTES`: packet-record header length, bytes. -/
  recHdrBytes : Nat
  /-- `MAX_FRAME_DATA`: largest value of the frame `size` byte. -/
  maxFrameData : Nat
  /-- `FB_SIZE`: frame buffer length, bytes. -/
  fbSize : Nat
  /-- `PT_ENTRIES`: packet table entries. -/
  ptEntries : Nat
  /-- `ALIGN`: record alignment, bytes. -/
  align : Nat
  /-- `CRC_POLY`: CRC-16 generator, MSB-first, x^16 term implicit. -/
  crcPoly : Half
  /-- `CRC_INIT`: CRC-16 initial register value. -/
  crcInit : Half
  /-- `EVENT_FLAG`: event-class bit of a command code. -/
  eventFlag : Half
  /-- `SET_MASK`: mask of the SET_REG class test. -/
  setMask : Half
  /-- `SET_MATCH`: match value of the SET_REG class test. -/
  setMatch : Half
  /-- `GET_MASK`: mask of the GET_REG class test. -/
  getMask : Half
  /-- `GET_MATCH`: match value of the GET_REG class test. -/
  getMatch : Half
  /-- `PIPE_COUNTER_BITS`: pipe counter width. -/
  pipeCounterBits : Nat
  /-- `PIPE_PORT_BITS`: pipe port width. -/
  pipePortBits : Nat
  /-- `PIPE_SERVICE_INDEX`: service index of pipe data packets. No rule of the unit reads it (R5, U18). -/
  pipeServiceIndex : Byte
  /-- `UNIT_BASE`: where the unit's spaces appear in the host's address space. No rule reads it (R61, U17). -/
  unitBase : Nat
deriving DecidableEq, Repr

/-- The values R5 gives in its column "this spec", which the rest of the spec assumes. -/
def Config.spec : Config where
  maxPayload := 236
  hdrBytes := 12
  recHdrBytes := 4
  maxFrameData := 240
  fbSize := 252
  ptEntries := 60
  align := 4
  crcPoly := 0x1021
  crcInit := 0xFFFF
  eventFlag := 0x8000
  setMask := 0xC000
  setMatch := 0x4000
  getMask := 0xF000
  getMatch := 0x1000
  pipeCounterBits := 5
  pipePortBits := 9
  pipeServiceIndex := Config.openPipeServiceIndex
  unitBase := Config.openUnitBase

/-- The parameters with the alternative SET_REG class that D16 of 92_eei_decisions.md keeps open to a model (U19). -/
def Config.setAlternative : Config := { Config.spec with setMask := 0xF000, setMatch := 0x2000 }

/-- FREE VALUE (10_state.md R37, U1; log 3): what `FB[a]` holds after reset number `epoch` until something writes it. -/
opaque Config.unspecFB (epoch a : Nat) : Byte

/-- FREE VALUE (10_state.md R37, U2; log 3): `PT[k].SI` after reset number `epoch`, until written. -/
opaque Config.unspecSI (epoch k : Nat) : Byte

/-- FREE VALUE (10_state.md R37, U2; log 3): `PT[k].CMD` after reset number `epoch`, until written. -/
opaque Config.unspecCMD (epoch k : Nat) : Half

/-- FREE VALUE (10_state.md R37, U2; log 3): `PT[k].PLEN` after reset number `epoch`, until written. -/
opaque Config.unspecPLEN (epoch k : Nat) : Byte

/-- FREE VALUE (10_state.md R37, U2; log 3): `PT[k].PAYLOAD[j]` after reset number `epoch`, until written. -/
opaque Config.unspecPayload (epoch k j : Nat) : Byte

end Sys2Proof
end

