-- ==== Sys2Proof/Syntax.lean ====
section
/-! DEFINITION. The instructions: one constructor per row of spec/opcode_table.json, in the table's order. The first
thirteen rows are the unit's operations (30_encoding.md R80, R81), which carry no operand in their encoding. The last
seven are the table's 16-bit wire encodings, "not a unit operation" (30_encoding.md R74, R76), with the bit fields the
table gives them; log 7 says what they mean as instructions. -/

namespace Sys2Proof

inductive Instr where
  /-- `NOP`, 0x0 (40_frame_codec.md R100). -/
  | nop
  /-- `ENCODE`, 0x1 (40_frame_codec.md R104). -/
  | encode
  /-- `DECODE`, 0x2 (40_frame_codec.md R114). -/
  | decode
  /-- `CRC`, 0x3 (40_frame_codec.md R103). -/
  | crc
  /-- `CMD_CLASSIFY`, 0x4 (41_command_codes.md R132). -/
  | cmdClassify
  /-- `CMD_MAKE_GET`, 0x5 (41_command_codes.md R133). -/
  | cmdMakeGet
  /-- `CMD_MAKE_SET`, 0x6 (41_command_codes.md R134). -/
  | cmdMakeSet
  /-- `CMD_MAKE_EVENT`, 0x7 (41_command_codes.md R135). -/
  | cmdMakeEvent
  /-- `PIPE_CMD_PACK`, 0x8 (42_pipe_marshalling.md R152). -/
  | pipeCmdPack
  /-- `PIPE_CMD_UNPACK`, 0x9 (42_pipe_marshalling.md R153). -/
  | pipeCmdUnpack
  /-- `PIPE_OPEN_PACK`, 0xA (42_pipe_marshalling.md R156). -/
  | pipeOpenPack
  /-- `PIPE_OPEN_UNPACK`, 0xB (42_pipe_marshalling.md R157). -/
  | pipeOpenUnpack
  /-- A reserved operation code, 0xC to 0xF (30_encoding.md R81); `op` is the code itself, which `STATUS.LASTOP`
  records. -/
  | illegalOp (op : BitVec 4)
  /-- `serviceCommand` of class EVENT, `1ccccccceeeeeeee` (30_encoding.md R74). -/
  | serviceCommandEvent (counter : BitVec 7) (event : BitVec 8)
  /-- `serviceCommand` of class SET_REG, `01xxrrrrrrrrrrrr`; the bits `x` are no field of the code (R74). -/
  | serviceCommandSetReg (x : BitVec 2) (reg : BitVec 12)
  /-- `serviceCommand` of class GET_REG, `0001rrrrrrrrrrrr` (R74). -/
  | serviceCommandGetReg (reg : BitVec 12)
  /-- `serviceCommand` of class OTHER, 0x0000 to 0x0FFF (R74). -/
  | serviceCommandOther0 (low : BitVec 12)
  /-- `serviceCommand` of class OTHER, 0x2000 to 0x2FFF (R74). -/
  | serviceCommandOther2 (low : BitVec 12)
  /-- `serviceCommand` of class OTHER, 0x3000 to 0x3FFF (R74). -/
  | serviceCommandOther3 (low : BitVec 12)
  /-- A pipe data command word, `pppppppppmkccccc` (30_encoding.md R76). -/
  | pipeDataCommandWord (port : BitVec 9) (metadata close : BitVec 1) (counter : BitVec 5)
deriving DecidableEq, Repr

end Sys2Proof
end

