-- ==== Sys2Proof/WellFormed.lean ====
section
/-! DEFINITION. When an instruction is one its encoding can express. Every bit field is a bit vector of exactly its
width, so one check is left: the code a reserved-operation instruction carries lies in 0xC to 0xF (30_encoding.md R81). -/

namespace Sys2Proof

/-- The instruction is one the encodings of 30_encoding.md can express. -/
def Instr.wellFormed : Instr → Bool
  | .illegalOp op => 0xC#4 ≤ op
  | .nop | .encode | .decode | .crc => true
  | .cmdClassify | .cmdMakeGet | .cmdMakeSet | .cmdMakeEvent => true
  | .pipeCmdPack | .pipeCmdUnpack | .pipeOpenPack | .pipeOpenUnpack => true
  | .serviceCommandEvent _ _ | .serviceCommandSetReg _ _ | .serviceCommandGetReg _ => true
  | .serviceCommandOther0 _ | .serviceCommandOther2 _ | .serviceCommandOther3 _ => true
  | .pipeDataCommandWord _ _ _ _ => true

end Sys2Proof
end

