-- ==== Sys2Proof/Decode.lean ====
section
/-! DEFINITION. The decoder and the encoder of the three formats of spec/opcode_table.json (30_encoding.md R74, R76,
R80, R81). A format's bytes are little-endian (20_memory.md R56). Which format a request has is the requester's to say:
30_encoding.md R76, "The unit does not decide which packets are pipe packets" (log 8). -/

namespace Sys2Proof

/-- The table's column "format". -/
inductive Format where
  /-- The 4-bit operation code in the low bits of the `OPREG` write data (R80). -/
  | op4
  /-- A 16-bit command code (R73, R74). -/
  | serviceCommand16
  /-- A 16-bit pipe data command word (R76). -/
  | pipeCommand16
deriving DecidableEq, Repr

/-- Why bytes decode to no instruction. No bit pattern is refused: the sixteen operation codes (R80, R81) and the
classes of R74 leave none over. -/
inductive DecodeRefusal where
  /-- There is no byte to decode. -/
  | noByte (f : Format)
  /-- A 16-bit format with one byte only. -/
  | halfMissing (f : Format)
deriving DecidableEq, Repr

/-- The operation a 4-bit code selects (30_encoding.md R80); 0xC to 0xF are reserved (R81). -/
def decodeOp (op : BitVec 4) : Instr :=
  match op.toNat with
  | 0x0 => .nop
  | 0x1 => .encode
  | 0x2 => .decode
  | 0x3 => .crc
  | 0x4 => .cmdClassify
  | 0x5 => .cmdMakeGet
  | 0x6 => .cmdMakeSet
  | 0x7 => .cmdMakeEvent
  | 0x8 => .pipeCmdPack
  | 0x9 => .pipeCmdUnpack
  | 0xA => .pipeOpenPack
  | 0xB => .pipeOpenUnpack
  | _ => .illegalOp op

/-- The row of the table a 16-bit command code is in. The rows' patterns exclude one another and leave no code over
(30_encoding.md R74). -/
def decodeServiceCommand (w : Half) : Instr :=
  if w.getLsbD 15 then .serviceCommandEvent (w.extractLsb' 8 7) (w.extractLsb' 0 8)
  else if w.getLsbD 14 then .serviceCommandSetReg (w.extractLsb' 12 2) (w.extractLsb' 0 12)
  else match (w.extractLsb' 12 2).toNat with
    | 0 => .serviceCommandOther0 (w.extractLsb' 0 12)
    | 1 => .serviceCommandGetReg (w.extractLsb' 0 12)
    | 2 => .serviceCommandOther2 (w.extractLsb' 0 12)
    | _ => .serviceCommandOther3 (w.extractLsb' 0 12)

/-- The fields of a pipe data command word (30_encoding.md R76). Every word has them. -/
def decodePipeWord (w : Half) : Instr :=
  .pipeDataCommandWord (w.extractLsb' 7 9) (w.extractLsb' 6 1) (w.extractLsb' 5 1) (w.extractLsb' 0 5)

/-- The decoder: the instruction the first bytes of `bs` hold in format `f`. -/
def decode : Format → List Byte → Except DecodeRefusal Instr
  | f, [] => .error (.noByte f)
  | .op4, b :: _ => .ok (decodeOp (b.extractLsb' 0 4))
  | .serviceCommand16, lo :: hi :: _ => .ok (decodeServiceCommand (hi ++ lo))
  | .pipeCommand16, lo :: hi :: _ => .ok (decodePipeWord (hi ++ lo))
  | f, [_] => .error (.halfMissing f)

/-- The format of an instruction's row. -/
def Instr.format : Instr → Format
  | .nop | .encode | .decode | .crc => .op4
  | .cmdClassify | .cmdMakeGet | .cmdMakeSet | .cmdMakeEvent => .op4
  | .pipeCmdPack | .pipeCmdUnpack | .pipeOpenPack | .pipeOpenUnpack => .op4
  | .illegalOp _ => .op4
  | .serviceCommandEvent _ _ | .serviceCommandSetReg _ _ | .serviceCommandGetReg _ => .serviceCommand16
  | .serviceCommandOther0 _ | .serviceCommandOther2 _ | .serviceCommandOther3 _ => .serviceCommand16
  | .pipeDataCommandWord _ _ _ _ => .pipeCommand16

/-- The bits of an instruction, as its row of the table writes them, in 16 bits (an operation code in bits 3:0). -/
def encodeWord : Instr → Half
  | .nop => 0x0
  | .encode => 0x1
  | .decode => 0x2
  | .crc => 0x3
  | .cmdClassify => 0x4
  | .cmdMakeGet => 0x5
  | .cmdMakeSet => 0x6
  | .cmdMakeEvent => 0x7
  | .pipeCmdPack => 0x8
  | .pipeCmdUnpack => 0x9
  | .pipeOpenPack => 0xA
  | .pipeOpenUnpack => 0xB
  | .illegalOp op => 0#12 ++ op
  | .serviceCommandEvent c e => 1#1 ++ c ++ e
  | .serviceCommandSetReg x r => 1#2 ++ x ++ r
  | .serviceCommandGetReg r => 1#4 ++ r
  | .serviceCommandOther0 x => 0#4 ++ x
  | .serviceCommandOther2 x => 2#4 ++ x
  | .serviceCommandOther3 x => 3#4 ++ x
  | .pipeDataCommandWord p m k c => p ++ m ++ k ++ c

/-- The bytes of a format: one for an operation code, two for a 16-bit word, least significant first. -/
def formatBytes : Format → Half → List Byte
  | .op4, w => [w.extractLsb' 0 8]
  | .serviceCommand16, w => [w.extractLsb' 0 8, w.extractLsb' 8 8]
  | .pipeCommand16, w => [w.extractLsb' 0 8, w.extractLsb' 8 8]

/-- The encoder: the bytes of an instruction in its own format. -/
def encode (i : Instr) : List Byte := formatBytes i.format (encodeWord i)

/-- The format the table gives a row of `nbits` bits. A 16-bit row is read as a command code: the bits of a pipe data
command word do not tell it from one (30_encoding.md R76; log 8). -/
def tableFormat (nbits : Nat) : Format := if nbits ≤ 8 then .op4 else .serviceCommand16

/-- The host's question: the instruction the decoder reads from the `nbits` bits `w` of a table row. -/
def decodeTableWord (nbits w : Nat) : Option Instr :=
  match decode (tableFormat nbits) (formatBytes (tableFormat nbits) (BitVec.ofNat 16 (w % 2 ^ nbits))) with
  | .ok i => some i
  | .error _ => none

end Sys2Proof
end

