-- ==== Sys2Proof/Machine/State.lean ====
section
/-! DEFINITION. The state of one unit (10_state.md R20), as plain data, and what the host still asks of it. -/

namespace Sys2Proof.Machine

/-- A memory of `w`-bit cells: the cells something has written since reset, as (address, value) pairs with addresses
strictly rising (`Memory.wf`). An address that is not listed holds no written value; what it reads as is a free value,
which the reading operation supplies (10_state.md R37; log 3). `Memory 8` is a list of `Host.Cell`. -/
abbrev Memory (w : Nat) := List (Nat × BitVec w)

/-- The packet table `PT` (10_state.md R33): one memory per field, keyed by the entry's number; the payload bytes are
keyed by `k * MAX_PAYLOAD + j` (log 13). -/
structure PacketTable where
  /-- `SI`, 8 bits: the service index. -/
  si : Memory 8
  /-- `CMD`, 16 bits: the command code. -/
  cmd : Memory 16
  /-- `PLEN`, 8 bits: the payload length. -/
  plen : Memory 8
  /-- `PAYLOAD[j]` of entry `k`, at `k * MAX_PAYLOAD + j`. -/
  payload : Memory 8
deriving DecidableEq, Repr

/-- The fields of a packet-table entry that move whole (20_memory.md R53). -/
inductive PTField where
  | si
  | cmd
  | plen
deriving DecidableEq, Repr

/-- One step asked of the unit from outside: a host access of 20_memory.md R51 to R53, the platform's reset
(70_reset_and_hazards.md R220), or a 16-bit wire word the host gives the unit to unmarshal (log 7). -/
inductive HostAccess where
  /-- `HostReadReg(n)` (R51). -/
  | readReg (n : BitVec 8)
  /-- `HostWriteReg(n, v)` (R51); to `OPREG` it issues an operation (R55). -/
  | writeReg (n : BitVec 8) (v : Word)
  /-- `HostReadFB(a)` (R52). -/
  | readFB (a : Nat)
  /-- `HostWriteFB(a, b)` (R52); `b[7:0]` is written. -/
  | writeFB (a : Nat) (b : Word)
  /-- `HostReadPT(k, f)` (R53). -/
  | readPT (k : Nat) (f : PTField)
  /-- `HostWritePT(k, f, v)` (R53); `v` is truncated to the field's width. -/
  | writePT (k : Nat) (f : PTField) (v : Word)
  /-- `HostReadPTByte(k, j)` (R53). -/
  | readPTByte (k j : Nat)
  /-- `HostWritePTByte(k, j, b)` (R53). -/
  | writePTByte (k j : Nat) (b : Byte)
  /-- The platform asserts reset (R220). -/
  | reset
  /-- A 16-bit `serviceCommand` word to unmarshal: `wr ARG0, w` and `op CMD_CLASSIFY` (log 7). -/
  | wireCommand (w : Half)
  /-- A 16-bit pipe data command word to unmarshal: `wr ARG0, w` and `op PIPE_CMD_UNPACK` (log 7). -/
  | wirePipe (w : Half)
deriving DecidableEq, Repr

/-- The whole state: the holding registers of 10_state.md R22, `FB` (R32), `PT` (R33), and the model's own three
fields `epoch`, `hostq` and `reads`. -/
structure State where
  /-- `STATUS` (R24). -/
  status : Half
  /-- `CRC` (R26). -/
  crc : Half
  /-- `FLEN` (R27). -/
  flen : Byte
  /-- `PCOUNT` (R28). -/
  pcount : Byte
  /-- `FFLAGS` (R29). -/
  fflags : Byte
  /-- `DEVID` (R30). -/
  devid : Word
  /-- `ARG0` (R31). -/
  arg0 : Word
  /-- `ARG1` (R31). -/
  arg1 : Word
  /-- `ARG2` (R31). -/
  arg2 : Word
  /-- `RES0` (R31). -/
  res0 : Word
  /-- `RES1` (R31). -/
  res1 : Word
  /-- `RES2` (R31). -/
  res2 : Word
  /-- The frame buffer `FB` (R32). -/
  fb : Memory 8
  /-- The packet table `PT` (R33). -/
  pt : PacketTable
  /-- The model's own: how many resets came after power-up; it indexes the free values of unwritten memory (log 4). -/
  epoch : Nat
  /-- The model's own: the accesses the host still performs, the next one first (log 1). -/
  hostq : List HostAccess
  /-- The model's own: the values the host's reads returned, oldest first (70_reset_and_hazards.md R230; log 5). -/
  reads : List Word
deriving DecidableEq, Repr

/-- No fault: an error of the unit is a result code in `STATUS.ERR`, never a trap, and nothing stops the unit
(60_exceptions.md R201; log 9). Nobody raises one. Safe: a step that cannot fault hides no behaviour of the unit. -/
inductive Fault where
deriving DecidableEq, Repr

/-- Why the model gives a request no meaning. -/
inductive Refusal where
  /-- The instruction has no meaning in the model yet. Raised by no arm of `exec`: every row of the table has its
  meaning. Safe: a refused step proves nothing about the unit. -/
  | notModelled (mnemonic : String)
deriving DecidableEq, Repr

/-- The unit right after reset (70_reset_and_hazards.md R220): every holding register is 0, and no byte of `FB` or
field of `PT` has been written. Nothing is queued and nothing has been read. -/
def State.reset : State where
  status := 0
  crc := 0
  flen := 0
  pcount := 0
  fflags := 0
  devid := 0
  arg0 := 0
  arg1 := 0
  arg2 := 0
  res0 := 0
  res1 := 0
  res2 := 0
  fb := []
  pt := { si := [], cmd := [], plen := [], payload := [] }
  epoch := 0
  hostq := []
  reads := []

end Sys2Proof.Machine
end

