-- ==== Sys2Proof/Machine/Flags.lean ====
section
/-! DEFINITION. The result codes (60_exceptions.md R200) and the layout of `STATUS` (10_state.md R24). The unit has no
condition code; its only flags are `TRAIL` and `PORTHI` (R35). -/

namespace Sys2Proof.Machine

/-- The result codes of 60_exceptions.md R200. Codes 11 to 15 are never written (U5), so none stands here. -/
inductive ErrCode where
  | ok
  | shortFrame
  | frameTooLarge
  | emptyFrame
  | crcMismatch
  | recordOverrun
  | payloadTooLarge
  | tooManyPackets
  | badOperand
  | malformedPayload
  | illegalOp
deriving DecidableEq, Repr

/-- The number of a result code (R200). -/
def ErrCode.code : ErrCode → BitVec 4
  | .ok => 0
  | .shortFrame => 1
  | .frameTooLarge => 2
  | .emptyFrame => 3
  | .crcMismatch => 4
  | .recordOverrun => 5
  | .payloadTooLarge => 6
  | .tooManyPackets => 7
  | .badOperand => 8
  | .malformedPayload => 9
  | .illegalOp => 10

/-- `STATUS` put together (10_state.md R24): `LASTOP` 11:8, `PORTHI` 5, `TRAIL` 4, `ERR` 3:0, reserved bits 0. -/
def statusWord (err : ErrCode) (trail porthi : Bool) (lastop : BitVec 4) : Half :=
  0#4 ++ lastop ++ 0#2 ++ BitVec.ofBool porthi ++ BitVec.ofBool trail ++ err.code

/-- `STATUS.ERR` (R24). -/
def State.err (s : State) : BitVec 4 := s.status.extractLsb' 0 4

/-- `STATUS.TRAIL` (R24). -/
def State.trail (s : State) : Bool := s.status.getLsbD 4

/-- `STATUS.PORTHI` (R24). -/
def State.porthi (s : State) : Bool := s.status.getLsbD 5

/-- `STATUS.LASTOP` (R24). -/
def State.lastop (s : State) : BitVec 4 := s.status.extractLsb' 8 4

/-- `TRAIL` of a successful DECODE (40_frame_codec.md R119): the received length `len` goes past the frame's end. -/
def trailFlag (len stop : Nat) : Bool := decide (stop < len)

/-- `PORTHI` of a successful PIPE_OPEN_UNPACK (42_pipe_marshalling.md R157): the port field is 512 or more, that is,
it needs more bits than a port has. -/
def porthiFlag (c : Config) (port : Half) : Bool := decide (2 ^ c.pipePortBits ≤ port.toNat)

end Sys2Proof.Machine
end

