-- ==== Sys2Proof/Machine/Ops.lean ====
section
/-! DEFINITION. The named operations over memory and registers that the meanings share: reading and writing `FB` and
`PT`, the little-endian forms of 00_scope.md R7, and the two ends of an operation, `raise` and `finish`. -/

namespace Sys2Proof.Machine

/-! ## Arithmetic and byte order -/

/-- `n` rounded up to a multiple of `a`; with `ALIGN = 4` it is `align4` of 00_scope.md R7. -/
def alignUp (a n : Nat) : Nat := (n + (a - 1)) / a * a

/-- The `n` low bytes of `v`, least significant first: what `MemWrite` stores (00_scope.md R7, 20_memory.md R56). -/
def leBytes (n v : Nat) : List Byte := (List.range n).map fun i => BitVec.ofNat 8 (v >>> (8 * i))

/-- The little-endian value of a byte sequence: what `MemRead` gives (00_scope.md R7, 20_memory.md R56). -/
def leValue : List Byte → Nat
  | [] => 0
  | b :: rest => b.toNat + 256 * leValue rest

/-! ## Memory -/

/-- The value written at `a`, if something has written there since reset. -/
def Memory.peek {w : Nat} : Memory w → Nat → Option (BitVec w)
  | [], _ => none
  | (k, v) :: rest, a => if a = k then some v else Memory.peek rest a

/-- Write `v` at `a`, keeping the addresses strictly rising. -/
def Memory.poke {w : Nat} : Memory w → Nat → BitVec w → Memory w
  | [], a, v => [(a, v)]
  | (k, u) :: rest, a, v =>
    if a < k then (a, v) :: (k, u) :: rest
    else if a = k then (a, v) :: rest
    else (k, u) :: Memory.poke rest a v

/-- Write the values `vs` at `a`, `a + 1`, and on. -/
def Memory.pokeList {w : Nat} : Memory w → Nat → List (BitVec w) → Memory w
  | m, _, [] => m
  | m, a, v :: vs => Memory.pokeList (Memory.poke m a v) (a + 1) vs

/-- The canonical form: addresses strictly rising. (An unlisted address holds no value, so no entry can equal what an
unlisted address holds.) -/
def Memory.wf {w : Nat} : Memory w → Bool
  | [] => true
  | (k, _) :: rest => (rest.all fun kv => decide (k < kv.1)) && Memory.wf rest

/-- Every listed address is below `n`. -/
def Memory.below {w : Nat} (m : Memory w) (n : Nat) : Bool := m.all fun kv => decide (kv.1 < n)

/-! ## The frame buffer (10_state.md R32) -/

/-- `FB[a]`. A byte nothing has written since reset reads as a free value that stays the same until it is written
(10_state.md R37). -/
def State.fbByte (s : State) (a : Nat) : Byte := (Memory.peek s.fb a).getD (Config.unspecFB s.epoch a)

/-- `FB[a .. a+n)`. -/
def State.fbRange (s : State) (a n : Nat) : List Byte := (List.range n).map fun i => s.fbByte (a + i)

/-! ## The packet table (10_state.md R33) -/

/-- Where the model keeps `PT[k].PAYLOAD[j]` (log 13). -/
def payloadKey (c : Config) (k j : Nat) : Nat := k * c.maxPayload + j

/-- `PT[k].SI`; free until written (10_state.md R37). -/
def State.ptSI (s : State) (k : Nat) : Byte := (Memory.peek s.pt.si k).getD (Config.unspecSI s.epoch k)

/-- `PT[k].CMD`; free until written (10_state.md R37). -/
def State.ptCMD (s : State) (k : Nat) : Half := (Memory.peek s.pt.cmd k).getD (Config.unspecCMD s.epoch k)

/-- `PT[k].PLEN`; free until written (10_state.md R37). -/
def State.ptPLEN (s : State) (k : Nat) : Byte := (Memory.peek s.pt.plen k).getD (Config.unspecPLEN s.epoch k)

/-- `PT[k].PAYLOAD[j]`; free until written (10_state.md R37). -/
def State.ptByte (c : Config) (s : State) (k j : Nat) : Byte :=
  (Memory.peek s.pt.payload (payloadKey c k j)).getD (Config.unspecPayload s.epoch k j)

/-- `PT[k].PAYLOAD[0..n)`. -/
def State.ptPayload (c : Config) (s : State) (k n : Nat) : List Byte := (List.range n).map fun j => s.ptByte c k j

/-- Write `PT[k].SI`. -/
def PacketTable.writeSI (pt : PacketTable) (k : Nat) (v : Byte) : PacketTable := { pt with si := Memory.poke pt.si k v }

/-- Write `PT[k].CMD`. -/
def PacketTable.writeCMD (pt : PacketTable) (k : Nat) (v : Half) : PacketTable := { pt with cmd := Memory.poke pt.cmd k v }

/-- Write `PT[k].PLEN`. -/
def PacketTable.writePLEN (pt : PacketTable) (k : Nat) (v : Byte) : PacketTable :=
  { pt with plen := Memory.poke pt.plen k v }

/-- Write `PT[k].PAYLOAD[j ..]` with the bytes `bs`. -/
def PacketTable.writePayload (c : Config) (pt : PacketTable) (k j : Nat) (bs : List Byte) : PacketTable :=
  { pt with payload := Memory.pokeList pt.payload (payloadKey c k j) bs }

/-! ## The holding registers (10_state.md R22) -/

/-- Write `STATUS`. -/
def State.setStatus (s : State) (v : Half) : State := { s with status := v }
/-- Write `CRC`. -/
def State.setCrc (s : State) (v : Half) : State := { s with crc := v }
/-- Write `FLEN`. -/
def State.setFlen (s : State) (v : Byte) : State := { s with flen := v }
/-- Write `PCOUNT`. -/
def State.setPcount (s : State) (v : Byte) : State := { s with pcount := v }
/-- Write `FFLAGS`. -/
def State.setFflags (s : State) (v : Byte) : State := { s with fflags := v }
/-- Write `DEVID`. -/
def State.setDevid (s : State) (v : Word) : State := { s with devid := v }
/-- Write `ARG0`. -/
def State.setArg0 (s : State) (v : Word) : State := { s with arg0 := v }
/-- Write `ARG1`. -/
def State.setArg1 (s : State) (v : Word) : State := { s with arg1 := v }
/-- Write `ARG2`. -/
def State.setArg2 (s : State) (v : Word) : State := { s with arg2 := v }
/-- Write `RES0`. -/
def State.setRes0 (s : State) (v : Word) : State := { s with res0 := v }
/-- Write `RES1`. -/
def State.setRes1 (s : State) (v : Word) : State := { s with res1 := v }
/-- Write `RES2`. -/
def State.setRes2 (s : State) (v : Word) : State := { s with res2 := v }
/-- Replace the contents of `FB`. -/
def State.setFb (s : State) (m : Memory 8) : State := { s with fb := m }
/-- Replace the contents of `PT`. -/
def State.setPt (s : State) (pt : PacketTable) : State := { s with pt := pt }
/-- Replace the accesses still to be performed. -/
def State.setHostq (s : State) (q : List HostAccess) : State := { s with hostq := q }
/-- Record a value a host read returned. -/
def State.logRead (s : State) (v : Word) : State := { s with reads := s.reads ++ [v] }

/-! ## The ends of an operation -/

/-- `raise Error(e)` in operation `op` (00_scope.md R7, 60_exceptions.md R201): `STATUS` is written whole, with both
flags 0 (10_state.md R25). An error is no trap: nothing is saved, and nothing else changes. -/
def State.raiseError (s : State) (op : BitVec 4) (e : ErrCode) : State := s.setStatus (statusWord e false false op)

/-- `finish` in operation `op` (00_scope.md R7): `STATUS` is written whole, with `ERR = OK` and the flags the
operation sets (10_state.md R25). -/
def State.finish (s : State) (op : BitVec 4) (trail porthi : Bool) : State :=
  s.setStatus (statusWord .ok trail porthi op)

/-- Reset (70_reset_and_hazards.md R220): every holding register takes its reset value, and the contents of `FB` and
`PT` become unspecified, so they are free values of a new `epoch` (log 4). What the host still does and what it has
read are outside the unit. -/
def State.resetUnit (s : State) : State :=
  { State.reset with epoch := s.epoch + 1, hostq := s.hostq, reads := s.reads }

end Sys2Proof.Machine
end

