-- ==== Sys2Proof/Machine/Operands.lean ====
section
/-! DEFINITION. Operand assembly (30_encoding.md R82): every operand of an operation is an `ARG` register taken
`checked` or `wrapped` at a stated width, or an index checked against a bound. -/

namespace Sys2Proof.Machine

/-- A checked `n`-bit operand: nothing when the 64-bit value is `2^n` or more, so that bits above `n` are never
silently dropped (R82). -/
def checked (n : Nat) (v : Word) : Option (BitVec n) := if 2 ^ n ≤ v.toNat then none else some (v.setWidth n)

/-- A wrapped `n`-bit operand: `trunc_n` (R82). -/
def wrapped (n : Nat) (v : Word) : BitVec n := v.setWidth n

/-- A packet-table entry number, checked to be below `PT_ENTRIES` (42_pipe_marshalling.md R156, R157). -/
def entryOperand (c : Config) (v : Word) : Option Nat := if c.ptEntries ≤ v.toNat then none else some v.toNat

/-- The byte range of the CRC operation, start and count, checked to lie inside `FB` (40_frame_codec.md R103). -/
def rangeOperand (c : Config) (a n : Word) : Option (Nat × Nat) :=
  if c.fbSize < a.toNat ∨ c.fbSize - a.toNat < n.toNat then none else some (a.toNat, n.toNat)

end Sys2Proof.Machine
end

