-- ==== Sys2Proof/Machine/Command.lean ====
section
/-! DEFINITION. The command-code operations CMD_CLASSIFY, CMD_MAKE_GET, CMD_MAKE_SET and CMD_MAKE_EVENT
(41_command_codes.md). They read only `ARG` registers and write only `RES` registers and `STATUS`. -/

namespace Sys2Proof.Machine

/-- A register-number range (30_encoding.md R75). Range code 7 is no range, and nothing produces it. -/
inductive RegRange where
  | unassigned
  | rwCommon
  | rwService
  | roCommon
  | roService
  | custom
  | reserved
deriving DecidableEq, Repr

/-- The number of a range (30_encoding.md R75). -/
def RegRange.code : RegRange → Nat
  | .unassigned => 0
  | .rwCommon => 1
  | .rwService => 2
  | .roCommon => 3
  | .roService => 4
  | .custom => 5
  | .reserved => 6

/-- `range(r)` (41_command_codes.md R131). -/
def regRange (r : BitVec 12) : RegRange :=
  if r.toNat = 0 then .unassigned
  else if r.toNat ≤ 0x07F then .rwCommon
  else if r.toNat ≤ 0x0FF then .rwService
  else if r.toNat ≤ 0x17F then .roCommon
  else if r.toNat ≤ 0x1FF then .roService
  else if r.toNat ≤ 0xEFF then .custom
  else .reserved

/-- A command code taken apart: its class with the fields the class has (30_encoding.md R74). -/
inductive Classified where
  | other
  | getReg (reg : BitVec 12)
  | setReg (reg : BitVec 12)
  | event (event : BitVec 8) (counter : BitVec 7)
deriving DecidableEq, Repr

/-- `classify(code)` (41_command_codes.md R130): the tests in their order. Bit 15, which R130 tests first, is the
parameter `EVENT_FLAG`, "event-class bit of a command code" (00_scope.md R5). -/
def classify (c : Config) (code : Half) : Classified :=
  if code &&& c.eventFlag ≠ 0 then .event (code.extractLsb' 0 8) (code.extractLsb' 8 7)
  else if code &&& c.setMask = c.setMatch then .setReg (code.extractLsb' 0 12)
  else if code &&& c.getMask = c.getMatch then .getReg (code.extractLsb' 0 12)
  else .other

/-- The triple `(class, f1, f2)` of R130, each zero-extended to 64 bits as CMD_CLASSIFY writes it (R132). -/
def Classified.triple : Classified → Word × Word × Word
  | .other => (0, 0, 0)
  | .getReg r => (1, r.setWidth 64, BitVec.ofNat 64 (regRange r).code)
  | .setReg r => (2, r.setWidth 64, BitVec.ofNat 64 (regRange r).code)
  | .event e n => (3, e.setWidth 64, n.setWidth 64)

/-- CMD_CLASSIFY (R132). -/
def classifyOp (c : Config) (s : State) : State :=
  match checked 16 s.arg0 with
  | none => s.raiseError 0x4 .badOperand
  | some code =>
    let t := (classify c code).triple
    (((s.setRes0 t.1).setRes1 t.2.1).setRes2 t.2.2).finish 0x4 false false

/-- CMD_MAKE_GET and CMD_MAKE_SET differ in the class bits only (R133, R134). -/
def makeRegOp (op : BitVec 4) (classBits : Half) (s : State) : State :=
  match checked 12 s.arg0 with
  | none => s.raiseError op .badOperand
  | some r => (s.setRes0 ((classBits ||| r.setWidth 16).setWidth 64)).finish op false false

/-- CMD_MAKE_EVENT (R135): the event code is checked, the counter wraps. -/
def makeEventOp (c : Config) (s : State) : State :=
  match checked 8 s.arg0 with
  | none => s.raiseError 0x7 .badOperand
  | some e =>
    let n := wrapped 7 s.arg1
    (s.setRes0 ((c.eventFlag ||| (n.setWidth 16 <<< 8) ||| e.setWidth 16).setWidth 64)).finish 0x7 false false

/-! ## The meanings -/

/-- `CMD_CLASSIFY` (R132). -/
def execCmdClassify (s : State) : Host.Outcome State Fault Refusal := .next (classifyOp Config.spec s)

/-- `CMD_MAKE_GET` (R133). -/
def execCmdMakeGet (s : State) : Host.Outcome State Fault Refusal := .next (makeRegOp 0x5 Config.spec.getMatch s)

/-- `CMD_MAKE_SET` (R134). -/
def execCmdMakeSet (s : State) : Host.Outcome State Fault Refusal := .next (makeRegOp 0x6 Config.spec.setMatch s)

/-- `CMD_MAKE_EVENT` (R135). -/
def execCmdMakeEvent (s : State) : Host.Outcome State Fault Refusal := .next (makeEventOp Config.spec s)

end Sys2Proof.Machine
end

