-- ==== Sys2Proof/Machine/Frame.lean ====
section
/-! DEFINITION. The frame operations NOP, CRC, ENCODE and DECODE (40_frame_codec.md), and the reserved operation codes
(30_encoding.md R81). -/

namespace Sys2Proof.Machine

/-! ## CRC-16 (R101) -/

/-- One of the eight shifts a byte takes (R101). -/
def crcBit (c : Config) (x : Half) : Half := if x.getLsbD 15 then (x <<< 1) ^^^ c.crcPoly else x <<< 1

/-- One byte of the sequence (R101). -/
def crcByte (c : Config) (x : Half) (b : Byte) : Half := Nat.repeat (crcBit c) 8 (x ^^^ (b.setWidth 16 <<< 8))

/-- `crc16` (R101): MSB-first, no reflection, no final XOR. -/
def crc16 (c : Config) (bs : List Byte) : Half := bs.foldl (crcByte c) c.crcInit

/-- The CRC operation (R103): over `FB[a .. a+n)`, whatever `FLEN` is. -/
def crcOp (c : Config) (s : State) : State :=
  match rangeOperand c s.arg0 s.arg1 with
  | none => s.raiseError 0x3 .badOperand
  | some (a, n) =>
    let x := crc16 c (s.fbRange a n)
    ((s.setCrc x).setRes0 (x.setWidth 64)).finish 0x3 false false

/-! ## ENCODE (R104 to R113) -/

/-- `off[i]`: the frame offset of record `i` (R105). -/
def recordOff (c : Config) (s : State) : Nat → Nat
  | 0 => c.hdrBytes
  | i + 1 => recordOff c s i + alignUp c.align (c.recHdrBytes + (s.ptPLEN i).toNat)

/-- `end` for `n ≥ 1` packets (R105): no padding follows the last record. -/
def recordsEnd (c : Config) (s : State) (n : Nat) : Nat :=
  recordOff c s (n - 1) + c.recHdrBytes + (s.ptPLEN (n - 1)).toNat

/-- `size` for `n ≥ 1` packets (R105). -/
def recordsSize (c : Config) (s : State) (n : Nat) : Nat := recordsEnd c s n - c.hdrBytes

/-- The checks of ENCODE in their order (R106, R107, R108; 60_exceptions.md R202): the first that fails. -/
def encodeCheck (c : Config) (s : State) : Option ErrCode :=
  let n := s.pcount.toNat
  if c.ptEntries < n then some .badOperand
  else if n = 0 then some .emptyFrame
  else if (List.range n).any fun k => decide (c.maxPayload < (s.ptPLEN k).toNat) then some .payloadTooLarge
  else if c.maxFrameData < recordsSize c s n then some .frameTooLarge
  else none

/-- Record `k` of `n` as ENCODE writes it from `off[k]` on (R110): length, service index, command code, payload, and,
unless it is the last, zero padding up to the next record. -/
def recordBytes (c : Config) (s : State) (n k : Nat) : List Byte :=
  let len := (s.ptPLEN k).toNat
  [s.ptPLEN k, s.ptSI k] ++ leBytes 2 (s.ptCMD k).toNat ++ s.ptPayload c k len ++
    (if k + 1 < n then List.replicate (recordOff c s (k + 1) - (recordOff c s k + c.recHdrBytes + len)) 0 else [])

/-- `FB` after steps 4 and 5 of ENCODE (R109, R110): the header but for the CRC, then the records in order. -/
def encodeBody (c : Config) (s : State) (n : Nat) : Memory 8 :=
  let header := Memory.pokeList (Memory.poke (Memory.poke s.fb 2 (BitVec.ofNat 8 (recordsSize c s n))) 3 s.fflags) 4
    (leBytes 8 s.devid.toNat)
  (List.range n).foldl (fun m k => Memory.pokeList m (recordOff c s k) (recordBytes c s n k)) header

/-- ENCODE. On an error it zeroes `FLEN` and writes nothing else but `STATUS` (R113); else it writes the frame, its CRC
and its length (R112). Bytes from `end` upward stay (R111). -/
def encodeOp (c : Config) (s : State) : State :=
  match encodeCheck c s with
  | some e => (s.setFlen 0).raiseError 0x1 e
  | none =>
    let n := s.pcount.toNat
    let stop := recordsEnd c s n
    let body := s.setFb (encodeBody c s n)
    let x := crc16 c (body.fbRange 2 (stop - 2))
    (((body.setFb (Memory.pokeList body.fb 0 (leBytes 2 x.toNat))).setCrc x).setFlen (BitVec.ofNat 8 stop)).finish 0x1
      false false

/-! ## DECODE (R114 to R120) -/

/-- A record DECODE has accepted (R118). -/
structure Rec where
  si : Byte
  cmd : Half
  plen : Byte
  payload : List Byte
deriving DecidableEq, Repr

/-- The checks of DECODE steps 1 and 2 in their order (R115, R116): the first that fails. -/
def decodeCheck (c : Config) (s : State) : Option ErrCode :=
  let len := s.flen.toNat
  let size := (s.fbByte 2).toNat
  if c.fbSize < len then some .badOperand
  else if len < c.hdrBytes then some .shortFrame
  else if c.maxFrameData < size then some .frameTooLarge
  else if len < c.hdrBytes + size then some .shortFrame
  else if size < c.recHdrBytes then some .emptyFrame
  else none

/-- The record that starts at frame offset `p` (R118, 30_encoding.md R72). -/
def recordAt (c : Config) (s : State) (p : Nat) : Rec where
  si := s.fbByte (p + 1)
  cmd := BitVec.ofNat 16 (leValue (s.fbRange (p + 2) 2))
  plen := s.fbByte p
  payload := s.fbRange (p + c.recHdrBytes) (s.fbByte p).toNat

/-- The record walk of DECODE step 4 (R118) from offset `p` up to `stop`, with the records accepted so far. It writes
no state. The first argument bounds the rounds: `stop - p` is enough, because every round raises `p`, so when it is 0
the loop is over (log 14). -/
def walkRecords (c : Config) (s : State) (stop : Nat) : Nat → Nat → List Rec → Except ErrCode (List Rec)
  | 0, _, acc => .ok acc
  | fuel + 1, p, acc =>
    if p < stop then
      let len := (s.fbByte p).toNat
      if stop < p + c.recHdrBytes + len then .error .recordOverrun
      else if acc.length = c.ptEntries then .error .tooManyPackets
      else walkRecords c s stop fuel (p + alignUp c.align (c.recHdrBytes + len)) (acc ++ [recordAt c s p])
    else .ok acc

/-- The packet-table writes of DECODE step 5 (R119): record `i` of the list into entry `k + i`. Payload bytes from
`PLEN` upward stay (10_state.md R34). -/
def commitRecords (c : Config) : Nat → List Rec → PacketTable → PacketTable
  | _, [], pt => pt
  | k, r :: rs, pt =>
    commitRecords c (k + 1) rs ((((pt.writeSI k r.si).writeCMD k r.cmd).writePLEN k r.plen).writePayload c k 0 r.payload)

/-- The failure effects of DECODE (R120): `PCOUNT` becomes 0. -/
def decodeFail (s : State) (e : ErrCode) : State := (s.setPcount 0).raiseError 0x2 e

/-- DECODE. `CRC` is written as soon as it has been computed, whether or not the comparison passes (R117). -/
def decodeFrame (c : Config) (s : State) : State :=
  match decodeCheck c s with
  | some e => decodeFail s e
  | none =>
    let stop := c.hdrBytes + (s.fbByte 2).toNat
    let computed := crc16 c (s.fbRange 2 (stop - 2))
    let t := s.setCrc computed
    if computed ≠ BitVec.ofNat 16 (leValue (s.fbRange 0 2)) then decodeFail t .crcMismatch
    else
      match walkRecords c s stop (stop - c.hdrBytes) c.hdrBytes [] with
      | .error e => decodeFail t e
      | .ok rs =>
        ((((t.setDevid (BitVec.ofNat 64 (leValue (s.fbRange 4 8)))).setFflags (s.fbByte 3)).setPt
          (commitRecords c 0 rs s.pt)).setPcount (BitVec.ofNat 8 rs.length)).finish 0x2 (trailFlag s.flen.toNat stop)
          false

/-! ## The meanings -/

/-- `NOP` (R100): `STATUS` becomes 0x0000. -/
def execNop (s : State) : Host.Outcome State Fault Refusal := .next (s.finish 0x0 false false)

/-- `ENCODE` (R104). -/
def execEncode (s : State) : Host.Outcome State Fault Refusal := .next (encodeOp Config.spec s)

/-- `DECODE` (R114). -/
def execDecode (s : State) : Host.Outcome State Fault Refusal := .next (decodeFrame Config.spec s)

/-- `CRC` (R103). -/
def execCrc (s : State) : Host.Outcome State Fault Refusal := .next (crcOp Config.spec s)

/-- A reserved operation code (30_encoding.md R81): the error `ILLEGAL_OP`, and `LASTOP` is the code. -/
def execIllegalOp (op : BitVec 4) (s : State) : Host.Outcome State Fault Refusal := .next (s.raiseError op .illegalOp)

end Sys2Proof.Machine
end

