-- ==== Sys2Proof/Machine/Pipe.lean ====
section
/-! DEFINITION. The pipe marshalling operations PIPE_CMD_PACK, PIPE_CMD_UNPACK, PIPE_OPEN_PACK and PIPE_OPEN_UNPACK
(42_pipe_marshalling.md). The unit holds no pipe state (R159). -/

namespace Sys2Proof.Machine

/-- `pipeword(cnt, close, meta, port)` (R150): the counter lowest, then close and metadata, then the port in the
remaining high bits (30_encoding.md R76), with the widths the parameters give. -/
def pipeWord (c : Config) (cnt : BitVec c.pipeCounterBits) (close metadata : BitVec 1) (port : BitVec c.pipePortBits) :
    Half :=
  cnt.setWidth 16 ||| (close.setWidth 16 <<< c.pipeCounterBits) ||| (metadata.setWidth 16 <<< (c.pipeCounterBits + 1)) |||
    (port.setWidth 16 <<< (c.pipeCounterBits + 2))

/-- PIPE_CMD_PACK (R152): the counter wraps, the port and the flags are checked, in this order. -/
def pipePackOp (c : Config) (s : State) : State :=
  match checked c.pipePortBits s.arg1, checked 2 s.arg2 with
  | none, _ => s.raiseError 0x8 .badOperand
  | some _, none => s.raiseError 0x8 .badOperand
  | some port, some flags =>
    let cnt := wrapped c.pipeCounterBits s.arg0
    let w := pipeWord c cnt (flags.extractLsb' 0 1) (flags.extractLsb' 1 1) port
    (s.setRes0 (w.setWidth 64)).finish 0x8 false false

/-- PIPE_CMD_UNPACK (R153), by `unpipe` (R151): counter, port, and the flags close and metadata. -/
def pipeUnpackOp (c : Config) (s : State) : State :=
  match checked 16 s.arg0 with
  | none => s.raiseError 0x9 .badOperand
  | some w =>
    let flags : BitVec 2 := w.extractLsb' (c.pipeCounterBits + 1) 1 ++ w.extractLsb' c.pipeCounterBits 1
    (((s.setRes0 ((w.extractLsb' 0 c.pipeCounterBits).setWidth 64)).setRes1
      ((w.extractLsb' (c.pipeCounterBits + 2) c.pipePortBits).setWidth 64)).setRes2
      (flags.setWidth 64)).finish 0x9 false false

/-- `openpayload(d, port)` (R155): device identifier, port and the reserved field, each little-endian. -/
def openPayload (d : Word) (port : Half) : List Byte := leBytes 8 d.toNat ++ leBytes 2 port.toNat ++ [0, 0]

/-- PIPE_OPEN_PACK (R156): the port is checked before the entry; `SI`, `CMD` and the payload bytes from 12 on stay. -/
def openPackOp (c : Config) (s : State) : State :=
  match checked c.pipePortBits s.arg1, entryOperand c s.arg2 with
  | none, _ => s.raiseError 0xA .badOperand
  | some _, none => s.raiseError 0xA .badOperand
  | some port, some k =>
    (s.setPt ((s.pt.writePayload c k 0 (openPayload s.arg0 (port.setWidth 16))).writePLEN k 12)).finish 0xA false false

/-- PIPE_OPEN_UNPACK (R157): a payload shorter than 12 bytes is malformed; a port field of 512 or more is returned
whole and flagged. -/
def openUnpackOp (c : Config) (s : State) : State :=
  match entryOperand c s.arg2 with
  | none => s.raiseError 0xB .badOperand
  | some k =>
    if (s.ptPLEN k).toNat < 12 then s.raiseError 0xB .malformedPayload
    else
      let field := fun a n => leValue ((List.range n).map fun i => s.ptByte c k (a + i))
      let port : Half := BitVec.ofNat 16 (field 8 2)
      (((s.setRes0 (BitVec.ofNat 64 (field 0 8))).setRes1 (port.setWidth 64)).setRes2
        (BitVec.ofNat 64 (field 10 2))).finish 0xB false (porthiFlag c port)

/-! ## The meanings -/

/-- `PIPE_CMD_PACK` (R152). -/
def execPipeCmdPack (s : State) : Host.Outcome State Fault Refusal := .next (pipePackOp Config.spec s)

/-- `PIPE_CMD_UNPACK` (R153). -/
def execPipeCmdUnpack (s : State) : Host.Outcome State Fault Refusal := .next (pipeUnpackOp Config.spec s)

/-- `PIPE_OPEN_PACK` (R156). -/
def execPipeOpenPack (s : State) : Host.Outcome State Fault Refusal := .next (openPackOp Config.spec s)

/-- `PIPE_OPEN_UNPACK` (R157). -/
def execPipeOpenUnpack (s : State) : Host.Outcome State Fault Refusal := .next (openUnpackOp Config.spec s)

end Sys2Proof.Machine
end

