-- ==== Sys2Proof/Machine/Wire.lean ====
section
/-! DEFINITION. The seven rows of the opcode table that are wire encodings, "not a unit operation". What the unit does
with such a word is to unmarshal it, when the host loads it into `ARG0` and issues CMD_CLASSIFY
(41_command_codes.md R132) or PIPE_CMD_UNPACK (42_pipe_marshalling.md R153). That pair of host accesses is the meaning
the model gives the word (DESIGN CHOICE, log 7). The word is built from the row's fields by the encoder. -/

namespace Sys2Proof.Machine

/-- `wr ARG0, w` then `op CMD_CLASSIFY` (log 7). -/
def unmarshalCommand (c : Config) (w : Half) (s : State) : State := classifyOp c (s.setArg0 (w.setWidth 64))

/-- `wr ARG0, w` then `op PIPE_CMD_UNPACK` (log 7). -/
def unmarshalPipe (c : Config) (w : Half) (s : State) : State := pipeUnpackOp c (s.setArg0 (w.setWidth 64))

/-- `serviceCommand` EVENT (30_encoding.md R74). -/
def execServiceCommandEvent (counter : BitVec 7) (event : BitVec 8) (s : State) : Host.Outcome State Fault Refusal :=
  .next (unmarshalCommand Config.spec (encodeWord (.serviceCommandEvent counter event)) s)

/-- `serviceCommand` SET_REG (30_encoding.md R74). -/
def execServiceCommandSetReg (x : BitVec 2) (reg : BitVec 12) (s : State) : Host.Outcome State Fault Refusal :=
  .next (unmarshalCommand Config.spec (encodeWord (.serviceCommandSetReg x reg)) s)

/-- `serviceCommand` GET_REG (30_encoding.md R74). -/
def execServiceCommandGetReg (reg : BitVec 12) (s : State) : Host.Outcome State Fault Refusal :=
  .next (unmarshalCommand Config.spec (encodeWord (.serviceCommandGetReg reg)) s)

/-- `serviceCommand` OTHER, 0x0000 to 0x0FFF (30_encoding.md R74). -/
def execServiceCommandOther0 (low : BitVec 12) (s : State) : Host.Outcome State Fault Refusal :=
  .next (unmarshalCommand Config.spec (encodeWord (.serviceCommandOther0 low)) s)

/-- `serviceCommand` OTHER, 0x2000 to 0x2FFF (30_encoding.md R74). -/
def execServiceCommandOther2 (low : BitVec 12) (s : State) : Host.Outcome State Fault Refusal :=
  .next (unmarshalCommand Config.spec (encodeWord (.serviceCommandOther2 low)) s)

/-- `serviceCommand` OTHER, 0x3000 to 0x3FFF (30_encoding.md R74). -/
def execServiceCommandOther3 (low : BitVec 12) (s : State) : Host.Outcome State Fault Refusal :=
  .next (unmarshalCommand Config.spec (encodeWord (.serviceCommandOther3 low)) s)

/-- A pipe data command word (30_encoding.md R76). -/
def execPipeDataCommandWord (port : BitVec 9) (metadata close : BitVec 1) (counter : BitVec 5) (s : State) :
    Host.Outcome State Fault Refusal :=
  .next (unmarshalPipe Config.spec (encodeWord (.pipeDataCommandWord port metadata close counter)) s)

end Sys2Proof.Machine
end

