-- ==== Sys2Proof/Machine/Dispatch.lean ====
section
/-! DEFINITION. exec: one arm per constructor of `Instr`, each one call of the instruction's own meaning. -/

namespace Sys2Proof.Machine

def exec (i : Instr) (s : State) : Host.Outcome State Fault Refusal :=
  match i with
  | .nop => Sys2Proof.Machine.execNop s
  | .encode => Sys2Proof.Machine.execEncode s
  | .decode => Sys2Proof.Machine.execDecode s
  | .crc => Sys2Proof.Machine.execCrc s
  | .cmdClassify => Sys2Proof.Machine.execCmdClassify s
  | .cmdMakeGet => Sys2Proof.Machine.execCmdMakeGet s
  | .cmdMakeSet => Sys2Proof.Machine.execCmdMakeSet s
  | .cmdMakeEvent => Sys2Proof.Machine.execCmdMakeEvent s
  | .pipeCmdPack => Sys2Proof.Machine.execPipeCmdPack s
  | .pipeCmdUnpack => Sys2Proof.Machine.execPipeCmdUnpack s
  | .pipeOpenPack => Sys2Proof.Machine.execPipeOpenPack s
  | .pipeOpenUnpack => Sys2Proof.Machine.execPipeOpenUnpack s
  | .illegalOp op => Sys2Proof.Machine.execIllegalOp op s
  | .serviceCommandEvent counter event => Sys2Proof.Machine.execServiceCommandEvent counter event s
  | .serviceCommandSetReg x reg => Sys2Proof.Machine.execServiceCommandSetReg x reg s
  | .serviceCommandGetReg reg => Sys2Proof.Machine.execServiceCommandGetReg reg s
  | .serviceCommandOther0 low => Sys2Proof.Machine.execServiceCommandOther0 low s
  | .serviceCommandOther2 low => Sys2Proof.Machine.execServiceCommandOther2 low s
  | .serviceCommandOther3 low => Sys2Proof.Machine.execServiceCommandOther3 low s
  | .pipeDataCommandWord port metadata close counter => Sys2Proof.Machine.execPipeDataCommandWord port metadata close counter s

end Sys2Proof.Machine
end

