-- ==== Sys2Proof/Machine/Access.lean ====
section
/-! DEFINITION. The host register interface: register numbers (10_state.md R22, R23), the host accesses of
20_memory.md R51 to R55, and what one request of the host or the platform does to the unit. -/

namespace Sys2Proof.Machine

/-- The assigned registers (10_state.md R22). -/
inductive Reg where
  | status
  | crc
  | flen
  | pcount
  | fflags
  | devid
  | arg0
  | arg1
  | arg2
  | res0
  | res1
  | res2
  | opreg
deriving DecidableEq, Repr

/-- The number of a register (10_state.md R22). -/
def Reg.number : Reg → BitVec 8
  | .status => 0x00
  | .crc => 0x01
  | .flen => 0x02
  | .pcount => 0x03
  | .fflags => 0x04
  | .devid => 0x05
  | .arg0 => 0x08
  | .arg1 => 0x09
  | .arg2 => 0x0A
  | .res0 => 0x0C
  | .res1 => 0x0D
  | .res2 => 0x0E
  | .opreg => 0x0F

/-- The register at a number; none at an unassigned one (10_state.md R23). -/
def Reg.ofNumber (n : BitVec 8) : Option Reg :=
  match n.toNat with
  | 0x00 => some .status
  | 0x01 => some .crc
  | 0x02 => some .flen
  | 0x03 => some .pcount
  | 0x04 => some .fflags
  | 0x05 => some .devid
  | 0x08 => some .arg0
  | 0x09 => some .arg1
  | 0x0A => some .arg2
  | 0x0C => some .res0
  | 0x0D => some .res1
  | 0x0E => some .res2
  | 0x0F => some .opreg
  | _ => none

/-- The value of a register, zero-extended to 64 bits; `OPREG` has no storage and reads as 0 (10_state.md R22). -/
def State.readReg (s : State) : Reg → Word
  | .status => s.status.setWidth 64
  | .crc => s.crc.setWidth 64
  | .flen => s.flen.setWidth 64
  | .pcount => s.pcount.setWidth 64
  | .fflags => s.fflags.setWidth 64
  | .devid => s.devid
  | .arg0 => s.arg0
  | .arg1 => s.arg1
  | .arg2 => s.arg2
  | .res0 => s.res0
  | .res1 => s.res1
  | .res2 => s.res2
  | .opreg => 0

/-- A host write to a register that holds a value: a read/write register takes `trunc_W(v)`, a read-only one stays
(20_memory.md R51). The write to `OPREG` is `perform`'s. -/
def State.writeReg (s : State) (r : Reg) (v : Word) : State :=
  match r with
  | .flen => s.setFlen (v.setWidth 8)
  | .pcount => s.setPcount (v.setWidth 8)
  | .fflags => s.setFflags (v.setWidth 8)
  | .devid => s.setDevid v
  | .arg0 => s.setArg0 v
  | .arg1 => s.setArg1 v
  | .arg2 => s.setArg2 v
  | .status | .crc | .res0 | .res1 | .res2 | .opreg => s

/-- `HostReadReg(n)` (20_memory.md R51). -/
def State.hostReadReg (s : State) (n : BitVec 8) : Word :=
  match Reg.ofNumber n with
  | some r => s.readReg r
  | none => 0

/-- `HostWriteReg(n, v)` for a number other than `OPREG`'s (20_memory.md R51). -/
def State.hostWriteReg (s : State) (n : BitVec 8) (v : Word) : State :=
  match Reg.ofNumber n with
  | some r => s.writeReg r v
  | none => s

/-- `HostReadFB(a)` (20_memory.md R52). -/
def State.hostReadFB (c : Config) (s : State) (a : Nat) : Byte := if a < c.fbSize then s.fbByte a else 0

/-- `HostWriteFB(a, b)` (20_memory.md R52). -/
def State.hostWriteFB (c : Config) (s : State) (a : Nat) (b : Word) : State :=
  if a < c.fbSize then s.setFb (Memory.poke s.fb a (b.setWidth 8)) else s

/-- `HostReadPT(k, f)` (20_memory.md R53), zero-extended. -/
def State.hostReadPT (c : Config) (s : State) (k : Nat) (f : PTField) : Word :=
  if k < c.ptEntries then
    match f with
    | .si => (s.ptSI k).setWidth 64
    | .cmd => (s.ptCMD k).setWidth 64
    | .plen => (s.ptPLEN k).setWidth 64
  else 0

/-- `HostWritePT(k, f, v)` (20_memory.md R53). -/
def State.hostWritePT (c : Config) (s : State) (k : Nat) (f : PTField) (v : Word) : State :=
  if k < c.ptEntries then
    match f with
    | .si => s.setPt (s.pt.writeSI k (v.setWidth 8))
    | .cmd => s.setPt (s.pt.writeCMD k (v.setWidth 16))
    | .plen => s.setPt (s.pt.writePLEN k (v.setWidth 8))
  else s

/-- `HostReadPTByte(k, j)` (20_memory.md R53). -/
def State.hostReadPTByte (c : Config) (s : State) (k j : Nat) : Byte :=
  if k < c.ptEntries ∧ j < c.maxPayload then s.ptByte c k j else 0

/-- `HostWritePTByte(k, j, b)` (20_memory.md R53). -/
def State.hostWritePTByte (c : Config) (s : State) (k j : Nat) (b : Byte) : State :=
  if k < c.ptEntries ∧ j < c.maxPayload then s.setPt (s.pt.writePayload c k j [b]) else s

/-- What runs an instruction: `exec`, or the same machine at other parameters (Machine/Configured.lean). -/
abbrev Runner := Instr → State → Host.Outcome State Fault Refusal

/-- Issue the operation the write data of `OPREG` selects (20_memory.md R55): `v[3:0]`; bits 63:4 are ignored (R51). -/
def issue (run : Runner) (v : Word) (s : State) : Host.Outcome State Fault Refusal :=
  run (decodeOp (v.extractLsb' 0 4)) s

/-- What one request does to a unit with the parameters `c`, as one indivisible step (20_memory.md R57). A read records
the value it returns and has no other effect (R54). -/
def perform (c : Config) (run : Runner) (a : HostAccess) (s : State) : Host.Outcome State Fault Refusal :=
  match a with
  | .readReg n => .next (s.logRead (s.hostReadReg n))
  | .writeReg n v => if n = Reg.opreg.number then issue run v s else .next (s.hostWriteReg n v)
  | .readFB a => .next (s.logRead ((s.hostReadFB c a).setWidth 64))
  | .writeFB a b => .next (s.hostWriteFB c a b)
  | .readPT k f => .next (s.logRead (s.hostReadPT c k f))
  | .writePT k f v => .next (s.hostWritePT c k f v)
  | .readPTByte k j => .next (s.logRead ((s.hostReadPTByte c k j).setWidth 64))
  | .writePTByte k j b => .next (s.hostWritePTByte c k j b)
  | .reset => .next s.resetUnit
  | .wireCommand w => run (decodeServiceCommand w) s
  | .wirePipe w => run (decodePipeWord w) s

/-- The next request, taken off the front of the queue, is performed. With none the unit is idle: it never starts an
operation by itself (20_memory.md R55; log 1). -/
def performNext (c : Config) (run : Runner) (s : State) : Host.Outcome State Fault Refusal :=
  match s.hostq with
  | [] => .next s
  | a :: rest => perform c run a (s.setHostq rest)

/-- The request by which the host has a table row of `nbits` bits, with the bits `w`, run: a write of `w` to `OPREG`
for an operation code (20_memory.md R55), else the unmarshalling of a 16-bit command code (log 8). -/
def tableRequest (nbits w : Nat) : HostAccess :=
  match tableFormat nbits with
  | .op4 => .writeReg Reg.opreg.number (BitVec.ofNat 64 (w % 2 ^ nbits))
  | .serviceCommand16 => .wireCommand (BitVec.ofNat 16 (w % 2 ^ nbits))
  | .pipeCommand16 => .wirePipe (BitVec.ofNat 16 (w % 2 ^ nbits))

end Sys2Proof.Machine
end

