-- ==== Sys2Proof/Machine/Step.lean ====
section
/-! DEFINITION. One step of the unit: one host access or one reset (20_memory.md R57, 70_reset_and_hazards.md R220).
The unit has no program counter and fetches nothing (10_state.md R21); its next request stands at the front of
`hostq` (log 1). -/

namespace Sys2Proof.Machine

/-- One step, with the parameters of 00_scope.md R5 at this spec's values. -/
def step (s : State) : Host.Outcome State Fault Refusal := performNext Config.spec exec s

/-- `s` with the request that runs the table row `w` placed first, so that the next step runs it (log 1). -/
def State.withFetchWord (s : State) (nbits w : Nat) : State := s.setHostq (tableRequest nbits w :: s.hostq)

end Sys2Proof.Machine
end

