-- ==== Sys2Proof/Machine/Configured.lean ====
section
/-! DEFINITION. The machine at any parameters (00_scope.md R5: "A model takes each one as a configuration argument"):
an instruction, a step and the machine as the host reads one, each with a `Config`. `exec`, `step` and `core` are these
at `Config.spec` (log 6). Only the rules' own terms vary: where R5 calls other values "outside the evidence", so are
the results here. -/

namespace Sys2Proof.Machine

/-- The meaning of an instruction of a unit with the parameters `c`. -/
def execWith (c : Config) (i : Instr) (s : State) : Host.Outcome State Fault Refusal :=
  match i with
  | .nop => execNop s
  | .encode => .next (encodeOp c s)
  | .decode => .next (decodeFrame c s)
  | .crc => .next (crcOp c s)
  | .cmdClassify => .next (classifyOp c s)
  | .cmdMakeGet => .next (makeRegOp 0x5 c.getMatch s)
  | .cmdMakeSet => .next (makeRegOp 0x6 c.setMatch s)
  | .cmdMakeEvent => .next (makeEventOp c s)
  | .pipeCmdPack => .next (pipePackOp c s)
  | .pipeCmdUnpack => .next (pipeUnpackOp c s)
  | .pipeOpenPack => .next (openPackOp c s)
  | .pipeOpenUnpack => .next (openUnpackOp c s)
  | .illegalOp op => execIllegalOp op s
  | .serviceCommandEvent counter event => .next (unmarshalCommand c (encodeWord (.serviceCommandEvent counter event)) s)
  | .serviceCommandSetReg x reg => .next (unmarshalCommand c (encodeWord (.serviceCommandSetReg x reg)) s)
  | .serviceCommandGetReg reg => .next (unmarshalCommand c (encodeWord (.serviceCommandGetReg reg)) s)
  | .serviceCommandOther0 low => .next (unmarshalCommand c (encodeWord (.serviceCommandOther0 low)) s)
  | .serviceCommandOther2 low => .next (unmarshalCommand c (encodeWord (.serviceCommandOther2 low)) s)
  | .serviceCommandOther3 low => .next (unmarshalCommand c (encodeWord (.serviceCommandOther3 low)) s)
  | .pipeDataCommandWord port metadata close counter =>
    .next (unmarshalPipe c (encodeWord (.pipeDataCommandWord port metadata close counter)) s)

/-- One step of a unit with the parameters `c`. -/
def stepWith (c : Config) (s : State) : Host.Outcome State Fault Refusal := performNext c (execWith c) s

/-- The machine with the parameters `c`. Reset sets the same registers whatever the parameters are
(70_reset_and_hazards.md R220). -/
def coreWith (c : Config) : Host.Core where
  State := State
  Fault := Fault
  Refusal := Refusal
  step := stepWith c
  reset := State.reset

end Sys2Proof.Machine
end

