-- ==== Sys2Proof/Machine/HostProgram.lean ====
section
/-! DEFINITION. The host-program syntax of 30_encoding.md R84: each line is the host accesses it expands to, and a
program is loaded by appending them to what the host still performs. -/

namespace Sys2Proof.Machine

/-- A line of a host program (R84). A register is given by its number (`Reg.number`). -/
inductive Line where
  /-- `wr REG, v` -/
  | wr (reg : BitVec 8) (v : Word)
  /-- `rd REG` -/
  | rd (reg : BitVec 8)
  /-- `wrfb a, b0 b1 ...` -/
  | wrfb (a : Nat) (bs : List Byte)
  /-- `wrpt k, F, v` -/
  | wrpt (k : Nat) (f : PTField) (v : Word)
  /-- `wrpl k, j, b0 b1 ...` -/
  | wrpl (k j : Nat) (bs : List Byte)
  /-- `op MNEMONIC` -/
  | op (i : Instr)
  /-- `frame b0 ... b(n-1)` -/
  | frame (bs : List Byte)
  /-- `pkt k, si, cmd, b0 ... b(len-1)` -/
  | pkt (k : Nat) (si : Byte) (cmd : Half) (bs : List Byte)
deriving DecidableEq, Repr

/-- `HostWriteFB` of consecutive bytes (R84). -/
def writeFBs : Nat → List Byte → List HostAccess
  | _, [] => []
  | a, b :: bs => .writeFB a (b.setWidth 64) :: writeFBs (a + 1) bs

/-- `HostWritePTByte` of consecutive bytes (R84). -/
def writePTBytes : Nat → Nat → List Byte → List HostAccess
  | _, _, [] => []
  | k, j, b :: bs => .writePTByte k j b :: writePTBytes k (j + 1) bs

/-- The host accesses of a line (R84). -/
def Line.expand : Line → List HostAccess
  | .wr n v => [.writeReg n v]
  | .rd n => [.readReg n]
  | .wrfb a bs => writeFBs a bs
  | .wrpt k f v => [.writePT k f v]
  | .wrpl k j bs => writePTBytes k j bs
  | .op i => [.writeReg Reg.opreg.number ((encodeWord i).setWidth 64)]
  | .frame bs => writeFBs 0 bs ++ [.writeReg Reg.flen.number (BitVec.ofNat 64 bs.length)]
  | .pkt k si cmd bs =>
    [.writePT k .si (si.setWidth 64), .writePT k .cmd (cmd.setWidth 64), .writePT k .plen (BitVec.ofNat 64 bs.length)] ++
      writePTBytes k 0 bs

/-- A line that names what there is: an operation of the unit after `op`, an entry and payload bytes inside the packet
table, bytes inside the frame buffer (10_state.md R32, R33; a received sequence longer than `FB` is dropped by the
host, 70_reset_and_hazards.md R222). The unit itself accepts any access, and R84 calls no line malformed: the predicate is
the model's (DESIGN CHOICE, log 20). -/
def Line.wellFormed (c : Config) : Line → Bool
  | .wr _ _ => true
  | .rd _ => true
  | .wrfb a bs => a + bs.length ≤ c.fbSize
  | .wrpt k _ _ => k < c.ptEntries
  | .wrpl k j bs => k < c.ptEntries && j + bs.length ≤ c.maxPayload
  | .op i => i.wellFormed && i.format == .op4
  | .frame bs => bs.length ≤ c.fbSize
  | .pkt k _ _ bs => k < c.ptEntries && bs.length ≤ c.maxPayload

/-- A host program's encoding: its list of host accesses (R84). -/
def assemble (p : List Line) : List HostAccess := p.flatMap Line.expand

/-- A program loaded from outside: its accesses follow those the host still performs. -/
def State.loadProgram (s : State) (p : List Line) : State := s.setHostq (s.hostq ++ assemble p)

end Sys2Proof.Machine
end

