-- ==== Sys2Proof/Safety.lean ====
section
/-! DEFINITION. The terms the statements use: the packets and the frame a state stands for, when a state is legal, and
the host's duties of 70_reset_and_hazards.md. The unit enforces no duty (41_command_codes.md R137, R207 of
60_exceptions.md); a duty is a premise a statement may take. -/

namespace Sys2Proof.Machine

/-! ## What a state stands for -/

/-- A packet of the source's data model (10_state.md R33). -/
structure Packet where
  deviceIdentifier : Word
  serviceIndex : Byte
  serviceCommand : Half
  payload : List Byte
deriving DecidableEq, Repr

/-- How many bytes `PAYLOAD[0..PLEN)` of entry `k` has: `PLEN`, when it is a value R33 of 10_state.md calls legal, 0 to
`MAX_PAYLOAD`. A greater `PLEN` names bytes the entry does not have, and the spec does not say what `PAYLOAD[0..PLEN)` is
then; the model takes the bytes the entry has, all `MAX_PAYLOAD` of them (DESIGN CHOICE, log 18). -/
def payloadLength (c : Config) (s : State) (k : Nat) : Nat := min (s.ptPLEN k).toNat c.maxPayload

/-- Entry `k` together with `DEVID` (10_state.md R33). Payload bytes from `PLEN` upward are no part of it (R34). What the
payload is when `PLEN` exceeds `MAX_PAYLOAD` is the model's choice (`payloadLength`, log 18). -/
def packetAt (c : Config) (s : State) (k : Nat) : Packet where
  deviceIdentifier := s.devid
  serviceIndex := s.ptSI k
  serviceCommand := s.ptCMD k
  payload := s.ptPayload c k (payloadLength c s k)

/-- How many entries `PT[0..PCOUNT)` has: `PCOUNT`, when it is a value R28 of 10_state.md calls legal, 0 to `PT_ENTRIES`.
A greater `PCOUNT` names entries the table does not have; the model takes the entries it has (DESIGN CHOICE, log 18). -/
def packetCount (c : Config) (s : State) : Nat := min s.pcount.toNat c.ptEntries

/-- The valid packets, `PT[0..PCOUNT)` (10_state.md R28). Which they are when `PCOUNT` exceeds `PT_ENTRIES` is the model's
choice (`packetCount`, log 18). -/
def packets (c : Config) (s : State) : List Packet := (List.range (packetCount c s)).map (packetAt c s)

/-- The frame in the buffer, `FB[0..FLEN)` (10_state.md R32): what the host transmits (70_reset_and_hazards.md R227).
With an `FLEN` above 252, which R27 calls not legal, the list goes on with free values at addresses `FB` does not have
(DESIGN CHOICE, log 18). -/
def frameOf (s : State) : List Byte := s.fbRange 0 s.flen.toNat

/-- `rs` are records that fill the record area of `FB` from offset `p` up to `stop` (30_encoding.md R72,
40_frame_codec.md R118): each lies inside it and starts at its predecessor's start plus `align4` of its length. -/
def recordChain (s : State) (stop : Nat) : Nat → List Rec → Prop
  | p, [] => stop ≤ p
  | p, r :: rs =>
    p < stop ∧ p + 4 + r.plen.toNat ≤ stop ∧
      r.plen = s.fbByte p ∧ r.si = s.fbByte (p + 1) ∧ r.cmd = s.fbByte (p + 3) ++ s.fbByte (p + 2) ∧
      r.payload = (List.range r.plen.toNat).map (fun j => s.fbByte (p + 4 + j)) ∧
      recordChain s stop (p + (4 + r.plen.toNat + 3) / 4 * 4) rs

/-- The length checks of DECODE all pass (40_frame_codec.md R115, R116). -/
def lengthsOk (s : State) : Prop :=
  s.flen.toNat ≤ 252 ∧ 12 ≤ s.flen.toNat ∧ (s.fbByte 2).toNat ≤ 240 ∧ 12 + (s.fbByte 2).toNat ≤ s.flen.toNat ∧
    4 ≤ (s.fbByte 2).toNat

/-- The end of the frame in the buffer, `12 + size` (40_frame_codec.md R118). -/
def frameStop (s : State) : Nat := 12 + (s.fbByte 2).toNat

/-- The CRC over everything after the CRC field (30_encoding.md R78). -/
def computedCrc (s : State) : Half := crc16 Config.spec (s.fbRange 2 (frameStop s - 2))

/-- The CRC field of the frame in the buffer, little-endian (30_encoding.md R71). -/
def storedCrc (s : State) : Half := s.fbByte 1 ++ s.fbByte 0

/-- `s` with bit `bit` of `FB[a]` flipped. -/
def flipBit (s : State) (a bit : Nat) : State := s.setFb (Memory.poke s.fb a (s.fbByte a ^^^ (1#8 <<< bit)))

/-! ## When a state is legal -/

/-- A value `STATUS` can hold (10_state.md R24, R25; 60_exceptions.md R200): reserved bits 0, a code of R200, `TRAIL`
only after a successful DECODE, `PORTHI` only after a successful PIPE_OPEN_UNPACK. -/
def statusLegal (v : Half) : Bool :=
  v.extractLsb' 6 2 == 0 && v.extractLsb' 12 4 == 0 && decide ((v.extractLsb' 0 4).toNat ≤ 10) &&
    (!v.getLsbD 4 || (v.extractLsb' 8 4 == 0x2#4 && v.extractLsb' 0 4 == 0#4)) &&
    (!v.getLsbD 5 || (v.extractLsb' 8 4 == 0xB#4 && v.extractLsb' 0 4 == 0#4))

/-- The state is legal: every memory is in its canonical form and lists only addresses the spec gives it
(10_state.md R32, R33), and `STATUS` holds a value R24 allows. -/
def State.wf (s : State) : Bool :=
  Memory.wf s.fb && Memory.below s.fb 252 &&
    (Memory.wf s.pt.si && Memory.below s.pt.si 60) && (Memory.wf s.pt.cmd && Memory.below s.pt.cmd 60) &&
    (Memory.wf s.pt.plen && Memory.below s.pt.plen 60) &&
    (Memory.wf s.pt.payload && Memory.below s.pt.payload (60 * 236)) && statusLegal s.status

/-! ## The host's duties -/

/-- Something has been written at each of the `n` addresses from `a` on since reset. -/
def Memory.written {w : Nat} (m : Memory w) (a n : Nat) : Bool := (List.range n).all fun i => (Memory.peek m (a + i)).isSome

/-- The memory operands 70_reset_and_hazards.md R222 lists for the operation have been written since reset, so that no
unspecified value enters its result (U3). A register is a legal input at its reset value (R222), so none is asked for.
Three points R222 leaves open are the model's choice (DESIGN CHOICE, log 18).
* ENCODE with a `PLEN` of 237 to 255: R222 asks for `PAYLOAD[0..PLEN)`, an entry has 236 bytes (10_state.md R33), and the
  host cannot write the others (20_memory.md R53). The model asks for the 236 bytes the entry has, and for none of another
  entry (`payloadLength`).
* An entry count, range, length or entry number above what the unit has (`PCOUNT` > 60, `FLEN` > 252, a CRC range that
  leaves `FB`, `ARG2` ≥ 60 for PIPE_OPEN_UNPACK): the operands R222 lists do not all exist. The model asks for no memory at
  all, since the operation refuses before it reads any.
* R222 says that the host writes its operands. The model asks that something has written them since reset, the host or an
  operation (a DECODE that fills `PT` before an ENCODE), which is what makes a byte specified (10_state.md R37). -/
def initialised (c : Config) (i : Instr) (s : State) : Bool :=
  match i with
  | .encode =>
    decide (c.ptEntries < s.pcount.toNat) ||
      (Memory.written s.pt.si 0 s.pcount.toNat && Memory.written s.pt.cmd 0 s.pcount.toNat &&
        Memory.written s.pt.plen 0 s.pcount.toNat &&
        (List.range s.pcount.toNat).all fun k => Memory.written s.pt.payload (payloadKey c k 0) (payloadLength c s k))
  | .decode => decide (c.fbSize < s.flen.toNat) || Memory.written s.fb 0 s.flen.toNat
  | .crc => decide (c.fbSize < s.arg0.toNat + s.arg1.toNat) || Memory.written s.fb s.arg0.toNat s.arg1.toNat
  | .pipeOpenUnpack =>
    decide (c.ptEntries ≤ s.arg2.toNat) ||
      (Memory.written s.pt.plen s.arg2.toNat 1 && Memory.written s.pt.payload (payloadKey c s.arg2.toNat 0) 12)
  | .nop | .cmdClassify | .cmdMakeGet | .cmdMakeSet | .cmdMakeEvent => true
  | .pipeCmdPack | .pipeCmdUnpack | .pipeOpenPack | .illegalOp _ => true
  | .serviceCommandEvent _ _ | .serviceCommandSetReg _ _ | .serviceCommandGetReg _ => true
  | .serviceCommandOther0 _ | .serviceCommandOther2 _ | .serviceCommandOther3 _ => true
  | .pipeDataCommandWord _ _ _ _ => true

/-- A command code the host must keep off the wire (70_reset_and_hazards.md R224): a GET_REG or SET_REG code of range
`RESERVED`. -/
def keptOffTheWire (c : Config) (code : Half) : Bool :=
  match classify c code with
  | .getReg r => regRange r == .reserved
  | .setReg r => regRange r == .reserved
  | .event _ _ => false
  | .other => false

/-- The duty of 70_reset_and_hazards.md R224 before an ENCODE. R224 does not say whether it covers pipe data packets, for
whose command word the classes are not meaningful (30_encoding.md R76). The model holds every packet to it, whatever its
`SI` (DESIGN CHOICE, log 17), so a pipe word such as 0x1F00 (port 0x3E) fails it. With a `PCOUNT` above 60 it holds the 60
entries there are to it (`packetCount`, log 18). -/
def mayEncode (c : Config) (s : State) : Bool :=
  (List.range (packetCount c s)).all fun k => !keptOffTheWire c (s.ptCMD k)

/-- The host may use `PT[0..PCOUNT)`, `DEVID` and `FFLAGS` as a received frame (70_reset_and_hazards.md R225): the last
operation was DECODE and it ended with `ERR` = OK. R225 speaks of the state right after DECODE and does not say how long
the trust lasts; the model lets it last until the next operation, whatever the host writes meanwhile (DESIGN CHOICE,
log 19). -/
def mayTrust (s : State) : Bool := s.lastop == 0x2#4 && s.err == 0#4

end Sys2Proof.Machine
end

