-- ==== Sys2Proof/Certificates/Slice0/Obligations.lean ====
section
/-! DEFINITION. The statements for the provers. Each docstring names the rule of spec/ the statement formalises; a
statement that rests on a choice of the model says so and names the log entry. -/

open Sys2Proof Sys2Proof.Machine

/-! ## NOP, reserved codes, and what every operation does -/

/-- 40_frame_codec.md R100: NOP changes nothing but `STATUS`, which becomes 0x0000. And, inferred from 10_state.md R25
(`LASTOP` is the code of the operation), no other instruction leaves `STATUS` at 0x0000. The second clause covers every
instruction, the wire-encoding rows too, whose meaning is the model's choice (log 7). -/
def Obligations.NopAloneClearsStatus : Prop :=
  (∀ s : State, exec .nop s = .next { s with status := 0 }) ∧
  ∀ (i : Instr) (s t : State), i.wellFormed = true → exec i s = .next t → t.status = 0 → i = .nop

/-- 30_encoding.md R81: each of the codes 0xC to 0xF selects `ILLEGAL_OP`: `ERR` = 10, `LASTOP` = the code, and no other
state changes. -/
def Obligations.ReservedCodesReportIllegalOp : Prop :=
  ∀ (op : BitVec 4) (s : State), 0xC#4 ≤ op →
    decodeOp op = .illegalOp op ∧ exec (.illegalOp op) s = .next { s with status := 0#4 ++ op ++ 0x0A#8 }

/-- 60_exceptions.md R201: no error, and nothing else, stops the unit: every instruction and every step answers a next
state. (The wire-encoding rows: the model's choice, log 7.) -/
def Obligations.NothingStopsTheUnit : Prop :=
  (∀ (i : Instr) (s : State), ∃ t, exec i s = .next t) ∧ ∀ s : State, ∃ t, step s = .next t

/-- 10_state.md R25: every operation, legal or not, writes all of `STATUS`: `LASTOP` is its code, the reserved bits are
0, `TRAIL` and `PORTHI` are 0 unless DECODE or PIPE_OPEN_UNPACK succeeded, and nothing of the old `STATUS` survives. -/
def Obligations.EveryOperationWritesStatusWhole : Prop :=
  ∀ (i : Instr) (s t : State), i.wellFormed = true → i.format = .op4 → exec i s = .next t →
    t.lastop = (encodeWord i).extractLsb' 0 4 ∧
    t.status.extractLsb' 6 2 = 0 ∧ t.status.extractLsb' 12 4 = 0 ∧
    (t.trail = true → i = .decode ∧ t.err = 0) ∧ (t.porthi = true → i = .pipeOpenUnpack ∧ t.err = 0) ∧
    ∀ v : Half, exec i { s with status := v } = .next t

/-- 10_state.md R26, R31, R34 and the failure rules: what an operation of the unit leaves unchanged. No operation writes
an `ARG` register; `CRC`, `FLEN`, `FB`, `DEVID`, `FFLAGS`, `PCOUNT`, `PT` and the `RES` registers are written only by the
operations whose rules name them; an error changes no `RES` register, no byte of `FB` and no entry of `PT`. -/
def Obligations.OperationsWriteOnlyWhatTheyName : Prop :=
  ∀ (i : Instr) (s t : State), i.format = .op4 → exec i s = .next t →
    (t.arg0 = s.arg0 ∧ t.arg1 = s.arg1 ∧ t.arg2 = s.arg2) ∧
    (i ≠ .crc → i ≠ .encode → i ≠ .decode → t.crc = s.crc) ∧
    (i ≠ .encode → t.flen = s.flen ∧ t.fb = s.fb) ∧
    (i ≠ .decode → t.devid = s.devid ∧ t.fflags = s.fflags ∧ t.pcount = s.pcount) ∧
    (i ≠ .decode → i ≠ .pipeOpenPack → t.pt = s.pt) ∧
    (i ∈ [.nop, .encode, .decode, .pipeOpenPack] → t.res0 = s.res0) ∧
    ((∀ op, i = .illegalOp op → t.res0 = s.res0)) ∧
    (i ≠ .cmdClassify → i ≠ .pipeCmdUnpack → i ≠ .pipeOpenUnpack → t.res1 = s.res1 ∧ t.res2 = s.res2) ∧
    (t.err ≠ 0 → t.res0 = s.res0 ∧ t.res1 = s.res1 ∧ t.res2 = s.res2 ∧ t.pt = s.pt ∧ t.fb = s.fb) ∧
    (t.epoch = s.epoch ∧ t.hostq = s.hostq ∧ t.reads = s.reads)

/-! ## CRC-16 and the CRC operation -/

/-- 40_frame_codec.md R101: `crc16` starts at 0xFFFF, and each further byte is exclusive-ored into the high byte and
shifted out in eight steps with the generator 0x1021; the check values of R101. The last clause is an inference the spec
marks as its own ("derived: from this rule, by execution", tried there on 200 byte strings): the byte-step form that
R101 quotes gives the same register for every register value and every byte. -/
def Obligations.Crc16IsTheBitLoopAndItsByteForm : Prop :=
  crc16 Config.spec [] = 0xFFFF ∧
  (∀ (bs : List Byte) (b : Byte), crc16 Config.spec (bs ++ [b]) =
    Nat.repeat (fun x : Half => if x.getLsbD 15 then (x <<< 1) ^^^ 0x1021#16 else x <<< 1) 8
      (crc16 Config.spec bs ^^^ (b.setWidth 16 <<< 8))) ∧
  (crc16 Config.spec [0x31, 0x32, 0x33, 0x34, 0x35, 0x36, 0x37, 0x38, 0x39] = 0x29B1 ∧
    crc16 Config.spec [0x00] = 0xE1F0 ∧ crc16 Config.spec [0xFF] = 0xFF00) ∧
  ∀ (c x y : Half) (b : Byte), x = (c >>> 8) ^^^ b.setWidth 16 → y = x ^^^ (x >>> 4) →
    crcByte Config.spec c b = (c <<< 8) ^^^ (y <<< 12) ^^^ (y <<< 5) ^^^ y

/-- 40_frame_codec.md R103: the CRC operation on a range inside `FB`, and its refusal of any other range. -/
def Obligations.CrcOperationResult : Prop :=
  (∀ s : State, s.arg0.toNat ≤ 252 → s.arg1.toNat ≤ 252 - s.arg0.toNat →
    exec .crc s = .next { s with
      crc := crc16 Config.spec (s.fbRange s.arg0.toNat s.arg1.toNat)
      res0 := (crc16 Config.spec (s.fbRange s.arg0.toNat s.arg1.toNat)).setWidth 64
      status := 0x0300 }) ∧
  ∀ s : State, 252 < s.arg0.toNat ∨ 252 - s.arg0.toNat < s.arg1.toNat → exec .crc s = .next { s with status := 0x0308 }

/-! ## ENCODE -/

/-- 40_frame_codec.md R106, R107, R108 and R113: the checks of ENCODE in their order, that a failing ENCODE writes
`FLEN` = 0 and `STATUS` and nothing else, and that a frame that passes them ends inside `FB`. -/
def Obligations.EncodeRefusesInOrder : Prop :=
  ∀ s : State,
    (60 < s.pcount.toNat → exec .encode s = .next { s with flen := 0, status := 0x0108 }) ∧
    (s.pcount.toNat = 0 → exec .encode s = .next { s with flen := 0, status := 0x0103 }) ∧
    (s.pcount.toNat ≤ 60 → (∃ k < s.pcount.toNat, 236 < (s.ptPLEN k).toNat) →
      exec .encode s = .next { s with flen := 0, status := 0x0106 }) ∧
    (0 < s.pcount.toNat → s.pcount.toNat ≤ 60 → (∀ k < s.pcount.toNat, (s.ptPLEN k).toNat ≤ 236) →
      240 < recordsSize Config.spec s s.pcount.toNat → exec .encode s = .next { s with flen := 0, status := 0x0102 }) ∧
    (0 < s.pcount.toNat → recordsSize Config.spec s s.pcount.toNat ≤ 240 →
      recordsEnd Config.spec s s.pcount.toNat ≤ 252)

/-- 40_frame_codec.md R105 and 20_memory.md R59: the record placement, `end` and `size`, and that every record starts at
a multiple of 4. -/
def Obligations.RecordsArePlacedAligned : Prop :=
  ∀ s : State,
    recordOff Config.spec s 0 = 12 ∧
    (∀ i, recordOff Config.spec s (i + 1) = recordOff Config.spec s i + (4 + (s.ptPLEN i).toNat + 3) / 4 * 4) ∧
    (∀ n, 0 < n → recordsEnd Config.spec s n = recordOff Config.spec s (n - 1) + 4 + (s.ptPLEN (n - 1)).toNat ∧
      recordsSize Config.spec s n + 12 = recordsEnd Config.spec s n) ∧
    ∀ i, 4 ∣ recordOff Config.spec s i

/-- 40_frame_codec.md R109, R110, R111 and R112: a successful ENCODE writes the header, the records with zero padding
between them, the CRC of everything after the CRC field, and the length; every byte of `FB` from `end` upward and every
other register stay. -/
def Obligations.EncodeWritesTheFrame : Prop :=
  ∀ (s : State) (n stop : Nat), n = s.pcount.toNat → stop = recordsEnd Config.spec s n → 0 < n → n ≤ 60 →
    (∀ k < n, (s.ptPLEN k).toNat ≤ 236) → recordsSize Config.spec s n ≤ 240 →
    ∃ t, exec .encode s = .next t ∧
      t = { s with
        fb := t.fb
        crc := crc16 Config.spec (t.fbRange 2 (stop - 2))
        flen := BitVec.ofNat 8 stop
        status := 0x0100 } ∧
      (t.fbByte 0 = t.crc.extractLsb' 0 8 ∧ t.fbByte 1 = t.crc.extractLsb' 8 8) ∧
      (t.fbByte 2).toNat = recordsSize Config.spec s n ∧ t.fbByte 3 = s.fflags ∧
      (∀ i < 8, t.fbByte (4 + i) = s.devid.extractLsb' (8 * i) 8) ∧
      (∀ (k o : Nat), k < n → o = recordOff Config.spec s k →
        t.fbByte o = s.ptPLEN k ∧ t.fbByte (o + 1) = s.ptSI k ∧
        t.fbByte (o + 2) = (s.ptCMD k).extractLsb' 0 8 ∧ t.fbByte (o + 3) = (s.ptCMD k).extractLsb' 8 8 ∧
        (∀ j < (s.ptPLEN k).toNat, t.fbByte (o + 4 + j) = s.ptByte Config.spec k j) ∧
        (k + 1 < n → ∀ p, o + 4 + (s.ptPLEN k).toNat ≤ p → p < recordOff Config.spec s (k + 1) → t.fbByte p = 0)) ∧
      ∀ a, stop ≤ a → t.fbByte a = s.fbByte a

/-- 30_encoding.md R70: a frame the unit produces is `12 + size` bytes with `4 ≤ size ≤ 240`, so 16 to 252 bytes, and a
frame it accepts has such a `size` and lies inside the received bytes. -/
def Obligations.FrameLengthsAreBounded : Prop :=
  (∀ s t : State, exec .encode s = .next t → t.err = 0 →
    t.flen.toNat = 12 + (t.fbByte 2).toNat ∧ 4 ≤ (t.fbByte 2).toNat ∧ (t.fbByte 2).toNat ≤ 240) ∧
  ∀ s t : State, exec .decode s = .next t → t.err = 0 →
    12 + (s.fbByte 2).toNat ≤ s.flen.toNat ∧ 4 ≤ (s.fbByte 2).toNat ∧ (s.fbByte 2).toNat ≤ 240

/-- 41_command_codes.md R137: ENCODE refuses no command code: whatever codes the entries hold, it ends with the same
`STATUS` and the same length. -/
def Obligations.EncodeRefusesNoCommandCode : Prop :=
  ∀ (s t : State) (cmds : Memory 16), exec .encode s = .next t →
    ∃ u, exec .encode { s with pt := { s.pt with cmd := cmds } } = .next u ∧ u.status = t.status ∧ u.flen = t.flen

/-- 10_state.md R34: ENCODE reads no payload byte at or beyond `PLEN`, and no entry from `PCOUNT` upward: two packet
tables that agree on the rest give the same result. -/
def Obligations.EncodeReadsOnlyThePackets : Prop :=
  ∀ (s t : State) (pt : PacketTable), exec .encode s = .next t →
    (∀ k < s.pcount.toNat, State.ptSI { s with pt := pt } k = s.ptSI k ∧
      State.ptCMD { s with pt := pt } k = s.ptCMD k ∧ State.ptPLEN { s with pt := pt } k = s.ptPLEN k ∧
      ∀ j < (s.ptPLEN k).toNat, State.ptByte Config.spec { s with pt := pt } k j = s.ptByte Config.spec k j) →
    exec .encode { s with pt := pt } = .next { t with pt := pt }

/-! ## DECODE -/

/-- 40_frame_codec.md R115 and R116: the length checks of DECODE in their order. Each ends it with `PCOUNT` = 0 and
`STATUS` written, and nothing else. -/
def Obligations.DecodeRefusesLengthsInOrder : Prop :=
  ∀ (s : State) (len size : Nat), len = s.flen.toNat → size = (s.fbByte 2).toNat →
    (252 < len → exec .decode s = .next { s with pcount := 0, status := 0x0208 }) ∧
    (len < 12 → exec .decode s = .next { s with pcount := 0, status := 0x0201 }) ∧
    (12 ≤ len → len ≤ 252 → 240 < size → exec .decode s = .next { s with pcount := 0, status := 0x0202 }) ∧
    (12 ≤ len → len ≤ 252 → size ≤ 240 → len < 12 + size →
      exec .decode s = .next { s with pcount := 0, status := 0x0201 }) ∧
    (len ≤ 252 → 12 + size ≤ len → size < 4 → exec .decode s = .next { s with pcount := 0, status := 0x0203 })

/-- 40_frame_codec.md R117: `CRC` takes the computed value whether or not the comparison passes; when it fails, DECODE
ends with `CRC_MISMATCH`, `PCOUNT` = 0 and nothing else written; when it passes, DECODE does not report a mismatch. -/
def Obligations.DecodeComparesTheCrc : Prop :=
  ∀ s : State, lengthsOk s →
    (computedCrc s ≠ storedCrc s →
      exec .decode s = .next { s with crc := computedCrc s, pcount := 0, status := 0x0204 }) ∧
    (computedCrc s = storedCrc s → ∃ t, exec .decode s = .next t ∧ t.crc = computedCrc s ∧ t.err ≠ 4)

/-- 40_frame_codec.md R118 and R119, with the inference R118 marks as derived from R116 and R118, that such a frame has
at most 60 records: a frame that passes the length and CRC checks is accepted exactly when records fill
its record area; then `DEVID`, `FFLAGS`, `PCOUNT` and the entries take the frame's contents, `TRAIL` tells whether bytes
follow the frame, and payload bytes from `PLEN` upward and entries from `PCOUNT` upward stay. A record that runs past the
area makes the whole frame fail with `RECORD_OVERRUN`. -/
def Obligations.DecodeAcceptsExactlyRecordChains : Prop :=
  ∀ s : State, lengthsOk s → computedCrc s = storedCrc s →
    (∀ rs : List Rec, recordChain s (frameStop s) 12 rs →
      rs.length ≤ 60 ∧ ∃ t, exec .decode s = .next t ∧
        t = { s with
          crc := computedCrc s
          devid := s.fbByte 11 ++ s.fbByte 10 ++ s.fbByte 9 ++ s.fbByte 8 ++ s.fbByte 7 ++ s.fbByte 6 ++ s.fbByte 5 ++ s.fbByte 4
          fflags := s.fbByte 3
          pcount := BitVec.ofNat 8 rs.length
          pt := t.pt
          status := if frameStop s < s.flen.toNat then 0x0210 else 0x0200 } ∧
        (∀ (k : Nat) (h : k < rs.length), t.ptSI k = rs[k].si ∧ t.ptCMD k = rs[k].cmd ∧ t.ptPLEN k = rs[k].plen ∧
          t.ptPayload Config.spec k rs[k].plen.toNat = rs[k].payload) ∧
        (∀ k, rs.length ≤ k → t.ptSI k = s.ptSI k ∧ t.ptCMD k = s.ptCMD k ∧ t.ptPLEN k = s.ptPLEN k) ∧
        ∀ k j, j < 236 → (∀ h : k < rs.length, rs[k].plen.toNat ≤ j) →
          t.ptByte Config.spec k j = s.ptByte Config.spec k j) ∧
    ((¬∃ rs : List Rec, recordChain s (frameStop s) 12 rs) →
      exec .decode s = .next { s with crc := computedCrc s, pcount := 0, status := 0x0205 })

/-- 40_frame_codec.md R120: a failing DECODE writes `PCOUNT` = 0, `STATUS`, and `CRC` only if it fails in the CRC check
or the record walk; everything else stays. -/
def Obligations.DecodeFailureEffects : Prop :=
  ∀ s t : State, exec .decode s = .next t → t.err ≠ 0 →
    t = { s with crc := t.crc, pcount := 0, status := t.status } ∧
    (t.err = 1 ∨ t.err = 2 ∨ t.err = 3 ∨ t.err = 8 → t.crc = s.crc) ∧
    (t.err = 4 ∨ t.err = 5 → t.crc = computedCrc s)

/-- The inference the spec draws in 40_frame_codec.md R122 (marked there as derived from R117 to R120): after a DECODE
that fails there is no packet; after one that succeeds every entry below
`PCOUNT` is a record of a frame whose CRC matched and whose records lie inside its record area; and no operation but
DECODE and PIPE_OPEN_PACK writes `PT`. The last clause covers every instruction, the wire-encoding rows too, whose
meaning is the model's choice (log 7). (`mayTrust` is read right after the DECODE, where R225 speaks; beyond it: log 19.
No `PLEN` exceeds 236 and no `PCOUNT` 60 there, so log 18 has no part in it.) -/
def Obligations.NoPartialAcceptance : Prop :=
  (∀ s t : State, exec .decode s = .next t →
    (mayTrust t = false → t.pcount = 0 ∧ packets Config.spec t = []) ∧
    (mayTrust t = true → computedCrc s = storedCrc s ∧ ∃ rs : List Rec, recordChain s (frameStop s) 12 rs ∧
      packets Config.spec t = rs.map fun r =>
        { deviceIdentifier := t.devid, serviceIndex := r.si, serviceCommand := r.cmd, payload := r.payload })) ∧
  ∀ (i : Instr) (s t : State), i ≠ .decode → i ≠ .pipeOpenPack → exec i s = .next t → t.pt = s.pt

/-- 40_frame_codec.md R118 and 60_exceptions.md R200: with 60 entries `TOO_MANY_PACKETS` cannot occur, in any
instruction. (The wire-encoding rows: the model's choice, log 7.) -/
def Obligations.TooManyPacketsCannotOccur : Prop :=
  ∀ (i : Instr) (s t : State), exec i s = .next t → t.err ≠ 7

/-- 10_state.md R32: no operation but CRC reads a byte of `FB` from `FLEN` upward: two buffers that agree below `FLEN`
give results that agree in every register, in `PT`, and in the frame left in `FB`. -/
def Obligations.StaleBytesAreNotRead : Prop :=
  ∀ (i : Instr) (s t u : State) (m : Memory 8), i.format = .op4 → i ≠ .crc →
    (∀ a < s.flen.toNat, State.fbByte { s with fb := m } a = s.fbByte a) →
    exec i s = .next t → exec i { s with fb := m } = .next u →
    u = { t with fb := u.fb } ∧ frameOf u = frameOf t

/-! ## Laws of the frame operations -/

/-- 40_frame_codec.md R121, first half: DECODE after a successful ENCODE succeeds with `TRAIL` = 0 and gives back the
device identifier, the flags and the packets. -/
def Obligations.DecodeAfterEncodeGivesThePackets : Prop :=
  ∀ s t : State, exec .encode s = .next t → t.err = 0 →
    ∃ u, exec .decode t = .next u ∧ u.status = 0x0200 ∧ u.devid = s.devid ∧ u.fflags = s.fflags ∧
      u.pcount = s.pcount ∧ packets Config.spec u = packets Config.spec s

/-- 40_frame_codec.md R121, converse: after a successful DECODE with `TRAIL` = 0 of a frame with zero padding between its
records and none after the last one, ENCODE reproduces the frame byte for byte. -/
def Obligations.EncodeAfterDecodeGivesTheFrame : Prop :=
  ∀ s t : State, exec .decode s = .next t → t.status = 0x0200 →
    (∀ k p, k + 1 < t.pcount.toNat → recordOff Config.spec t k + 4 + (t.ptPLEN k).toNat ≤ p →
      p < recordOff Config.spec t (k + 1) → s.fbByte p = 0) →
    recordsSize Config.spec t t.pcount.toNat = (s.fbByte 2).toNat →
    ∃ u, exec .encode t = .next u ∧ u.status = 0x0100 ∧ frameOf u = frameOf s

/-- 40_frame_codec.md R102, for every byte but the `size` byte: flipping one bit of a frame ENCODE produced makes DECODE
fail with `CRC_MISMATCH`. -/
def Obligations.BitFlipOutsideSizeIsDetected : Prop :=
  ∀ (s t : State) (a bit : Nat), exec .encode s = .next t → t.err = 0 → a < t.flen.toNat → a ≠ 2 → bit < 8 →
    ∃ u, exec .decode (flipBit t a bit) = .next u ∧ u.err = 4

/-- Against 40_frame_codec.md R102 (a derived, not normative sentence; log 12): there is a frame ENCODE produces and a bit
of its `size` byte whose flip DECODE accepts, because the flipped size ends the CRC range and the record walk earlier. -/
def Obligations.SizeByteFlipCanBeAccepted : Prop :=
  ∃ (s t u : State) (bit : Nat), exec .encode s = .next t ∧ t.err = 0 ∧ bit < 8 ∧
    exec .decode (flipBit t 2 bit) = .next u ∧ u.err = 0

/-! ## Command codes -/

/-- 41_command_codes.md R130 and R132: CMD_CLASSIFY on every 16-bit code by its class, and its refusal of a wider
operand. -/
def Obligations.CmdClassifyResult : Prop :=
  ∀ (s : State) (v : Nat), v = s.arg0.toNat →
    (0x8000 ≤ v → v < 0x10000 → exec .cmdClassify s = .next { s with
      res0 := 3, res1 := BitVec.ofNat 64 (v % 256), res2 := BitVec.ofNat 64 (v / 256 % 128), status := 0x0400 }) ∧
    (0x4000 ≤ v → v < 0x8000 → exec .cmdClassify s = .next { s with
      res0 := 2, res1 := BitVec.ofNat 64 (v % 4096),
      res2 := BitVec.ofNat 64 (regRange (BitVec.ofNat 12 v)).code, status := 0x0400 }) ∧
    (0x1000 ≤ v → v < 0x2000 → exec .cmdClassify s = .next { s with
      res0 := 1, res1 := BitVec.ofNat 64 (v % 4096),
      res2 := BitVec.ofNat 64 (regRange (BitVec.ofNat 12 v)).code, status := 0x0400 }) ∧
    (v < 0x1000 ∨ 0x2000 ≤ v ∧ v < 0x4000 → exec .cmdClassify s = .next { s with
      res0 := 0, res1 := 0, res2 := 0, status := 0x0400 }) ∧
    (0x10000 ≤ v → exec .cmdClassify s = .next { s with status := 0x0408 })

/-- 41_command_codes.md R131: the range of every 12-bit register number. -/
def Obligations.RegisterRanges : Prop :=
  ∀ (r : BitVec 12) (v : Nat), v = r.toNat →
    (v = 0 → (regRange r).code = 0) ∧
    (1 ≤ v → v ≤ 0x07F → (regRange r).code = 1) ∧
    (0x080 ≤ v → v ≤ 0x0FF → (regRange r).code = 2) ∧
    (0x100 ≤ v → v ≤ 0x17F → (regRange r).code = 3) ∧
    (0x180 ≤ v → v ≤ 0x1FF → (regRange r).code = 4) ∧
    (0x200 ≤ v → v ≤ 0xEFF → (regRange r).code = 5) ∧
    (0xF00 ≤ v → (regRange r).code = 6)

/-- 41_command_codes.md R133: CMD_MAKE_GET. -/
def Obligations.CmdMakeGetResult : Prop :=
  (∀ s : State, s.arg0.toNat < 0x1000 →
    exec .cmdMakeGet s = .next { s with res0 := BitVec.ofNat 64 (0x1000 + s.arg0.toNat), status := 0x0500 }) ∧
  ∀ s : State, 0x1000 ≤ s.arg0.toNat → exec .cmdMakeGet s = .next { s with status := 0x0508 }

/-- 41_command_codes.md R134: CMD_MAKE_SET. -/
def Obligations.CmdMakeSetResult : Prop :=
  (∀ s : State, s.arg0.toNat < 0x1000 →
    exec .cmdMakeSet s = .next { s with res0 := BitVec.ofNat 64 (0x4000 + s.arg0.toNat), status := 0x0600 }) ∧
  ∀ s : State, 0x1000 ≤ s.arg0.toNat → exec .cmdMakeSet s = .next { s with status := 0x0608 }

/-- 41_command_codes.md R135: CMD_MAKE_EVENT; the counter wraps to 7 bits and never raises. -/
def Obligations.CmdMakeEventResult : Prop :=
  (∀ s : State, s.arg0.toNat < 0x100 →
    exec .cmdMakeEvent s = .next { s with
      res0 := BitVec.ofNat 64 (0x8000 + s.arg1.toNat % 128 * 256 + s.arg0.toNat), status := 0x0700 }) ∧
  ∀ s : State, 0x100 ≤ s.arg0.toNat → exec .cmdMakeEvent s = .next { s with status := 0x0708 }

/-- 41_command_codes.md R136: what CMD_CLASSIFY gives for a code that CMD_MAKE_GET, CMD_MAKE_SET or CMD_MAKE_EVENT made. -/
def Obligations.ClassifyUndoesMake : Prop :=
  (∀ r : BitVec 12, classify Config.spec (0x1000#16 ||| r.setWidth 16) = .getReg r) ∧
  (∀ r : BitVec 12, classify Config.spec (0x4000#16 ||| r.setWidth 16) = .setReg r) ∧
  (∀ (e : BitVec 8) (n : BitVec 7),
    classify Config.spec (0x8000#16 ||| (n.setWidth 16 <<< 8) ||| e.setWidth 16) = .event e n)

/-- 70_reset_and_hazards.md R224 (for which packets, the pipe data packets among them: the model's choice, log 17): the
codes the host keeps off the wire are the GET_REG and SET_REG codes whose register
number is 0xF00 to 0xFFF. -/
def Obligations.CodesKeptOffTheWire : Prop :=
  ∀ code : Half, keptOffTheWire Config.spec code = true ↔
    (0x1000 ≤ code.toNat ∧ code.toNat < 0x2000 ∨ 0x4000 ≤ code.toNat ∧ code.toNat < 0x8000) ∧
      0xF00 ≤ code.toNat % 4096

/-! ## Pipe marshalling -/

/-- 42_pipe_marshalling.md R150 and R152: PIPE_CMD_PACK; the counter wraps to 5 bits. -/
def Obligations.PipeCmdPackResult : Prop :=
  (∀ s : State, s.arg1.toNat < 512 → s.arg2.toNat < 4 →
    exec .pipeCmdPack s = .next { s with
      res0 := BitVec.ofNat 64 (s.arg0.toNat % 32 + s.arg2.toNat % 2 * 32 + s.arg2.toNat / 2 * 64 + s.arg1.toNat * 128)
      status := 0x0800 }) ∧
  ∀ s : State, 512 ≤ s.arg1.toNat ∨ 4 ≤ s.arg2.toNat → exec .pipeCmdPack s = .next { s with status := 0x0808 }

/-- 42_pipe_marshalling.md R153: PIPE_CMD_UNPACK, with the fields where R151 puts them. -/
def Obligations.PipeCmdUnpackResult : Prop :=
  (∀ s : State, s.arg0.toNat < 0x10000 →
    exec .pipeCmdUnpack s = .next { s with
      res0 := BitVec.ofNat 64 (s.arg0.toNat % 32)
      res1 := BitVec.ofNat 64 (s.arg0.toNat / 128)
      res2 := BitVec.ofNat 64 (s.arg0.toNat / 32 % 4)
      status := 0x0900 }) ∧
  ∀ s : State, 0x10000 ≤ s.arg0.toNat → exec .pipeCmdUnpack s = .next { s with status := 0x0908 }

/-- The inference the spec draws in 42_pipe_marshalling.md R154 (marked there as derived from R150 to R153):
PIPE_CMD_PACK and PIPE_CMD_UNPACK undo one another. -/
def Obligations.PipeWordsRoundTrip : Prop :=
  (∀ s t : State, exec .pipeCmdUnpack s = .next t → t.err = 0 →
    ∃ u, exec .pipeCmdPack { t with arg0 := t.res0, arg1 := t.res1, arg2 := t.res2 } = .next u ∧
      u.err = 0 ∧ u.res0 = s.arg0) ∧
  ∀ s t : State, exec .pipeCmdPack s = .next t → t.err = 0 →
    ∃ u, exec .pipeCmdUnpack { t with arg0 := t.res0 } = .next u ∧ u.err = 0 ∧
      u.res0 = (s.arg0.setWidth 5).setWidth 64 ∧ u.res1 = s.arg1 ∧ u.res2 = s.arg2

/-- 42_pipe_marshalling.md R155 and R156: PIPE_OPEN_PACK writes the twelve payload bytes and `PLEN` of the entry it names
and nothing else of `PT`. -/
def Obligations.PipeOpenPackResult : Prop :=
  (∀ (s : State) (k : Nat), k = s.arg2.toNat → s.arg1.toNat < 512 → k < 60 →
    ∃ t, exec .pipeOpenPack s = .next t ∧
      t = { s with pt := { s.pt with plen := t.pt.plen, payload := t.pt.payload }, status := 0x0A00 } ∧
      t.ptPLEN k = 12 ∧ (∀ k', k' ≠ k → t.ptPLEN k' = s.ptPLEN k') ∧
      (∀ i < 8, t.ptByte Config.spec k i = s.arg0.extractLsb' (8 * i) 8) ∧
      t.ptByte Config.spec k 8 = s.arg1.extractLsb' 0 8 ∧ t.ptByte Config.spec k 9 = s.arg1.extractLsb' 8 8 ∧
      t.ptByte Config.spec k 10 = 0 ∧ t.ptByte Config.spec k 11 = 0 ∧
      ∀ k' j, j < 236 → k' ≠ k ∨ 12 ≤ j → t.ptByte Config.spec k' j = s.ptByte Config.spec k' j) ∧
  ∀ s : State, 512 ≤ s.arg1.toNat ∨ 60 ≤ s.arg2.toNat → exec .pipeOpenPack s = .next { s with status := 0x0A08 }

/-- 42_pipe_marshalling.md R157: PIPE_OPEN_UNPACK. -/
def Obligations.PipeOpenUnpackResult : Prop :=
  ∀ (s : State) (k : Nat) (b : Nat → Byte), k = s.arg2.toNat → b = s.ptByte Config.spec k →
    (k < 60 → 12 ≤ (s.ptPLEN k).toNat → exec .pipeOpenUnpack s = .next { s with
      res0 := b 7 ++ b 6 ++ b 5 ++ b 4 ++ b 3 ++ b 2 ++ b 1 ++ b 0
      res1 := (b 9 ++ b 8).setWidth 64
      res2 := (b 11 ++ b 10).setWidth 64
      status := if 512 ≤ (b 9 ++ b 8).toNat then 0x0B20 else 0x0B00 }) ∧
    (k < 60 → (s.ptPLEN k).toNat < 12 → exec .pipeOpenUnpack s = .next { s with status := 0x0B09 }) ∧
    (60 ≤ k → exec .pipeOpenUnpack s = .next { s with status := 0x0B08 })

/-- The inference the spec draws in 42_pipe_marshalling.md R158 (marked there as derived from R155 to R157):
PIPE_OPEN_UNPACK gives back what PIPE_OPEN_PACK put into the same entry, whatever else changed in between. -/
def Obligations.PipeOpenRoundTrip : Prop :=
  ∀ s t r : State, exec .pipeOpenPack s = .next t → t.err = 0 → r.arg2 = s.arg2 →
    r.ptPLEN s.arg2.toNat = t.ptPLEN s.arg2.toNat →
    (∀ j < 12, r.ptByte Config.spec s.arg2.toNat j = t.ptByte Config.spec s.arg2.toNat j) →
    ∃ u, exec .pipeOpenUnpack r = .next u ∧ u.err = 0 ∧ u.res0 = s.arg0 ∧ u.res1 = s.arg1 ∧ u.res2 = 0 ∧
      u.porthi = false

/-! ## The wire-encoding rows (the model's choice, log 7) -/

/-- The model's choice (log 7) on 41_command_codes.md R130 and R132: a command-code word of the opcode table is loaded
into `ARG0` and classified. -/
def Obligations.ServiceCommandWordsAreClassified : Prop :=
  (∀ (n : BitVec 7) (e : BitVec 8) (s : State), exec (.serviceCommandEvent n e) s = .next { s with
    arg0 := (1#1 ++ n ++ e).setWidth 64, res0 := 3, res1 := e.setWidth 64, res2 := n.setWidth 64, status := 0x0400 }) ∧
  (∀ (x : BitVec 2) (r : BitVec 12) (s : State), exec (.serviceCommandSetReg x r) s = .next { s with
    arg0 := (1#2 ++ x ++ r).setWidth 64, res0 := 2, res1 := r.setWidth 64,
    res2 := BitVec.ofNat 64 (regRange r).code, status := 0x0400 }) ∧
  (∀ (r : BitVec 12) (s : State), exec (.serviceCommandGetReg r) s = .next { s with
    arg0 := (1#4 ++ r).setWidth 64, res0 := 1, res1 := r.setWidth 64,
    res2 := BitVec.ofNat 64 (regRange r).code, status := 0x0400 }) ∧
  (∀ (x : BitVec 12) (s : State), exec (.serviceCommandOther0 x) s = .next { s with
    arg0 := (0#4 ++ x).setWidth 64, res0 := 0, res1 := 0, res2 := 0, status := 0x0400 }) ∧
  (∀ (x : BitVec 12) (s : State), exec (.serviceCommandOther2 x) s = .next { s with
    arg0 := (2#4 ++ x).setWidth 64, res0 := 0, res1 := 0, res2 := 0, status := 0x0400 }) ∧
  ∀ (x : BitVec 12) (s : State), exec (.serviceCommandOther3 x) s = .next { s with
    arg0 := (3#4 ++ x).setWidth 64, res0 := 0, res1 := 0, res2 := 0, status := 0x0400 }

/-- The model's choice (log 7) on 42_pipe_marshalling.md R151 and R153: a pipe data command word of the opcode table is
loaded into `ARG0` and unpacked. -/
def Obligations.PipeDataCommandWordsAreUnpacked : Prop :=
  ∀ (p : BitVec 9) (m k : BitVec 1) (n : BitVec 5) (s : State),
    exec (.pipeDataCommandWord p m k n) s = .next { s with
      arg0 := (p ++ m ++ k ++ n).setWidth 64, res0 := n.setWidth 64, res1 := p.setWidth 64, res2 := (m ++ k).setWidth 64
      status := 0x0900 }

/-- The model's choice (log 7): presenting a wire word does exactly what the host accesses `wr ARG0, w` and
`op CMD_CLASSIFY` (or `op PIPE_CMD_UNPACK`) do one after the other. -/
def Obligations.WireWordsAreTwoHostAccesses : Prop :=
  ∀ (s : State) (w : Half) (q : List HostAccess),
    step { s with hostq := .wireCommand w :: q } =
      Host.Core.run Sys2Proof.core 2 { s with hostq := .writeReg 0x08 (w.setWidth 64) :: .writeReg 0x0F 4 :: q } ∧
    step { s with hostq := .wirePipe w :: q } =
      Host.Core.run Sys2Proof.core 2 { s with hostq := .writeReg 0x08 (w.setWidth 64) :: .writeReg 0x0F 9 :: q }

/-! ## The host's accesses, reset, and the step -/

/-- 20_memory.md R55 through the model's queue (log 1): the next step runs the instruction the decoder reads from the
bytes of the next request; with no request the unit is idle. A write to `OPREG` is the spec's request. The requests that
present a 16-bit wire word are the model's own (log 7), and so is telling the decoder the word's format (log 8). -/
def Obligations.StepRunsTheDecodedInstruction : Prop :=
  ∀ (s : State) (q : List HostAccess) (i : Instr),
    (∀ v : Word, decode .op4 [v.extractLsb' 0 8] = .ok i →
      step { s with hostq := .writeReg 0x0F v :: q } = exec i { s with hostq := q }) ∧
    (∀ w : Half, decode .serviceCommand16 [w.extractLsb' 0 8, w.extractLsb' 8 8] = .ok i →
      step { s with hostq := .wireCommand w :: q } = exec i { s with hostq := q }) ∧
    (∀ w : Half, decode .pipeCommand16 [w.extractLsb' 0 8, w.extractLsb' 8 8] = .ok i →
      step { s with hostq := .wirePipe w :: q } = exec i { s with hostq := q }) ∧
    step { s with hostq := [] } = .next { s with hostq := [] }

/-- 20_memory.md R51: the register space. A read returns the whole register, zero-extended, and changes nothing; a write
truncates to a read/write register's width, changes nothing elsewhere, and to `OPREG` issues operation `v[3:0]`. -/
def Obligations.RegisterSpaceAccess : Prop :=
  ∀ (s : State) (q : List HostAccess) (n : BitVec 8) (v : Word),
    step { s with hostq := .readReg n :: q } = .next { s with
      hostq := q
      reads := s.reads ++ [
        if n = 0x00#8 then s.status.setWidth 64 else if n = 0x01#8 then s.crc.setWidth 64
        else if n = 0x02#8 then s.flen.setWidth 64 else if n = 0x03#8 then s.pcount.setWidth 64
        else if n = 0x04#8 then s.fflags.setWidth 64 else if n = 0x05#8 then s.devid
        else if n = 0x08#8 then s.arg0 else if n = 0x09#8 then s.arg1 else if n = 0x0A#8 then s.arg2
        else if n = 0x0C#8 then s.res0 else if n = 0x0D#8 then s.res1 else if n = 0x0E#8 then s.res2 else 0] } ∧
    step { s with hostq := .writeReg n v :: q } =
      if n = 0x0F#8 then exec (decodeOp (v.extractLsb' 0 4)) { s with hostq := q }
      else if n = 0x02#8 then .next { s with hostq := q, flen := v.setWidth 8 }
      else if n = 0x03#8 then .next { s with hostq := q, pcount := v.setWidth 8 }
      else if n = 0x04#8 then .next { s with hostq := q, fflags := v.setWidth 8 }
      else if n = 0x05#8 then .next { s with hostq := q, devid := v }
      else if n = 0x08#8 then .next { s with hostq := q, arg0 := v }
      else if n = 0x09#8 then .next { s with hostq := q, arg1 := v }
      else if n = 0x0A#8 then .next { s with hostq := q, arg2 := v }
      else .next { s with hostq := q }

/-- 10_state.md R23: an unassigned register number reads 0 and ignores writes. -/
def Obligations.UnassignedRegisters : Prop :=
  ∀ (s : State) (q : List HostAccess) (n : BitVec 8) (v : Word),
    n = 0x06#8 ∨ n = 0x07#8 ∨ n = 0x0B#8 ∨ 0x10#8 ≤ n →
    step { s with hostq := .readReg n :: q } = .next { s with hostq := q, reads := s.reads ++ [0] } ∧
    step { s with hostq := .writeReg n v :: q } = .next { s with hostq := q }

/-- 20_memory.md R52: the frame-buffer space. -/
def Obligations.FrameBufferSpaceAccess : Prop :=
  ∀ (s : State) (q : List HostAccess) (a : Nat) (b : Word),
    step { s with hostq := .readFB a :: q } = .next { s with
      hostq := q, reads := s.reads ++ [if a < 252 then (s.fbByte a).setWidth 64 else 0] } ∧
    (a < 252 → ∃ t, step { s with hostq := .writeFB a b :: q } = .next t ∧ t = { s with hostq := q, fb := t.fb } ∧
      t.fbByte a = b.extractLsb' 0 8 ∧ ∀ a', a' ≠ a → t.fbByte a' = s.fbByte a') ∧
    (252 ≤ a → step { s with hostq := .writeFB a b :: q } = .next { s with hostq := q })

/-- 20_memory.md R53: the packet-table space. -/
def Obligations.PacketTableSpaceAccess : Prop :=
  ∀ (s : State) (q : List HostAccess) (k j : Nat) (f : PTField) (v : Word) (b : Byte),
    step { s with hostq := .readPT k f :: q } = .next { s with
      hostq := q
      reads := s.reads ++ [
        if k < 60 then
          (if f = .si then (s.ptSI k).setWidth 64 else if f = .cmd then (s.ptCMD k).setWidth 64
            else (s.ptPLEN k).setWidth 64)
        else 0] } ∧
    step { s with hostq := .readPTByte k j :: q } = .next { s with
      hostq := q
      reads := s.reads ++ [if k < 60 ∧ j < 236 then (s.ptByte Config.spec k j).setWidth 64 else 0] } ∧
    (k < 60 → ∃ t, step { s with hostq := .writePT k f v :: q } = .next t ∧ t = { s with hostq := q, pt := t.pt } ∧
      ∀ k', t.ptSI k' = (if f = .si ∧ k' = k then v.setWidth 8 else s.ptSI k') ∧
        t.ptCMD k' = (if f = .cmd ∧ k' = k then v.setWidth 16 else s.ptCMD k') ∧
        t.ptPLEN k' = (if f = .plen ∧ k' = k then v.setWidth 8 else s.ptPLEN k') ∧
        ∀ j', t.ptByte Config.spec k' j' = s.ptByte Config.spec k' j') ∧
    (60 ≤ k → step { s with hostq := .writePT k f v :: q } = .next { s with hostq := q }) ∧
    (k < 60 → j < 236 → ∃ t, step { s with hostq := .writePTByte k j b :: q } = .next t ∧
      t = { s with hostq := q, pt := { s.pt with payload := t.pt.payload } } ∧
      ∀ k' j', j' < 236 →
        t.ptByte Config.spec k' j' = if k' = k ∧ j' = j then b else s.ptByte Config.spec k' j') ∧
    (60 ≤ k ∨ 236 ≤ j → step { s with hostq := .writePTByte k j b :: q } = .next { s with hostq := q })

/-- 70_reset_and_hazards.md R220: reset sets every holding register to its reset value and leaves `FB` and `PT`
unspecified: no value written before is kept. (That the unspecified contents are free values of a new epoch, and that the
queue and the record of reads stay, is the model's choice: log 3, log 4, log 2.) -/
def Obligations.ResetSetsEveryRegister : Prop :=
  ∀ (s : State) (q : List HostAccess), step { s with hostq := .reset :: q } = .next
    { status := 0, crc := 0, flen := 0, pcount := 0, fflags := 0, devid := 0, arg0 := 0, arg1 := 0, arg2 := 0,
      res0 := 0, res1 := 0, res2 := 0, fb := [], pt := { si := [], cmd := [], plen := [], payload := [] },
      epoch := s.epoch + 1, hostq := q, reads := s.reads }

/-- 70_reset_and_hazards.md R221: what each operation gives right after reset. -/
def Obligations.OperationsRightAfterReset : Prop :=
  exec .decode State.reset = .next { State.reset with status := 0x0201 } ∧
  exec .encode State.reset = .next { State.reset with status := 0x0103 } ∧
  exec .crc State.reset = .next { State.reset with crc := 0xFFFF, res0 := 0xFFFF, status := 0x0300 } ∧
  exec .cmdClassify State.reset = .next { State.reset with status := 0x0400 } ∧
  exec .cmdMakeGet State.reset = .next { State.reset with res0 := 0x1000, status := 0x0500 } ∧
  exec .cmdMakeSet State.reset = .next { State.reset with res0 := 0x4000, status := 0x0600 } ∧
  exec .cmdMakeEvent State.reset = .next { State.reset with res0 := 0x8000, status := 0x0700 } ∧
  exec .pipeCmdPack State.reset = .next { State.reset with status := 0x0800 } ∧
  exec .pipeCmdUnpack State.reset = .next { State.reset with status := 0x0900 } ∧
  (∃ t, exec .pipeOpenPack State.reset = .next t ∧ t.err = 0 ∧ t.ptPLEN 0 = 12) ∧
  (∃ t, exec .pipeOpenUnpack State.reset = .next t ∧
    t.err = if (State.reset.ptPLEN 0).toNat < 12 then 9 else 0)

/-- 70_reset_and_hazards.md R222 and 93_implementation_defined.md U3: when the memory operands R222 lists have been
written, no unspecified value enters the result: it is the same whatever the unwritten memory holds (the free values of
any other epoch, log 3). What is asked for when `PLEN` exceeds 236 or an operand is out of range, and who may have written
it, is the model's choice (log 18). (The wire-encoding rows: log 7.) -/
def Obligations.InitialisedOperationsIgnoreUnspecifiedBytes : Prop :=
  ∀ (i : Instr) (s t : State) (e : Nat), initialised Config.spec i s = true → exec i s = .next t →
    exec i { s with epoch := e } = .next { t with epoch := e }

/-- 30_encoding.md R84: the line `frame b0 ... b(n-1)` loads the bytes into `FB` from address 0 on and their number into
`FLEN`, and changes nothing else. -/
def Obligations.FrameLineLoadsTheBytes : Prop :=
  ∀ (s : State) (bs : List Byte) (q : List HostAccess), bs.length ≤ 252 →
    ∃ t : State, Host.Core.run Sys2Proof.core (bs.length + 1) { s with hostq := (Line.frame bs).expand ++ q } = .next t ∧
      t = { s with hostq := q, flen := BitVec.ofNat 8 bs.length, fb := t.fb } ∧
      (∀ (a : Nat) (h : a < bs.length), t.fbByte a = bs[a]) ∧ ∀ a, bs.length ≤ a → t.fbByte a = s.fbByte a

/-! ## The invariant -/

/-- 10_state.md R24, R32 and R33: every step from a legal state ends in a legal state: `STATUS` keeps a value R24
allows, and every memory stays in canonical form inside the addresses the spec gives it. (The requests a step takes
from the queue are the model's form of the host's accesses: log 1, log 2, log 7.) -/
def Obligations.StepKeepsTheStateLegal : Prop :=
  ∀ s t : State, s.wf = true → step s = .next t → t.wf = true

/-- The state after reset is legal. -/
def Obligations.ResetIsLegal : Prop := State.reset.wf = true

/-! ## Encoding -/

/-- 30_encoding.md R74, R76, R80 and R81: decoding the bytes of a well-formed instruction gives it back, whatever
bytes follow. (That the decoder is told the format is the model's choice: log 8.) -/
def Obligations.DecodeOfEncode : Prop :=
  ∀ (i : Instr) (rest : List Byte), i.wellFormed = true → decode i.format (encode i ++ rest) = .ok i

/-- 30_encoding.md R74, R76, R80 and R81: an instruction the decoder answers is well-formed, has the format asked for,
and encodes to the bytes read (of an operation code, its low four bits). (That the decoder is told the format is the
model's choice: log 8.) -/
def Obligations.EncodeOfDecode : Prop :=
  ∀ (f : Format) (bs : List Byte) (i : Instr), decode f bs = .ok i →
    i.wellFormed = true ∧ i.format = f ∧
      encode i = if f = .op4 then (bs.take 1).map (fun b => b &&& 0x0F#8) else bs.take 2

/-- Words written out from 30_encoding.md R74, R76 and R80 decode to the instructions they stand for. -/
def Obligations.WrittenOutWordsDecode : Prop :=
  decode .op4 [0b00000001#8] = .ok .encode ∧ decode .op4 [0b00000011#8] = .ok .crc ∧
  decode .op4 [0b00000111#8] = .ok .cmdMakeEvent ∧ decode .op4 [0b00001010#8] = .ok .pipeOpenPack ∧
  decode .op4 [0b00001101#8] = .ok (.illegalOp 0xD) ∧
  decode .serviceCommand16 [0x05#8, 0x82#8] = .ok (.serviceCommandEvent 2 5) ∧
  decode .serviceCommand16 [0x80#8, 0x50#8] = .ok (.serviceCommandSetReg 1 0x080) ∧
  decode .serviceCommand16 [0x01#8, 0x11#8] = .ok (.serviceCommandGetReg 0x101) ∧
  decode .pipeCommand16 [0xA3#8, 0xD2#8] = .ok (.pipeDataCommandWord 0x1A5 0 1 3)

/-! ## The parameters -/

/-- 00_scope.md R5: `exec` and `step` are the machine that takes the parameters as an argument, at this spec's values
(that the machine the host reads runs at these values is the model's reading: log 6). -/
def Obligations.MachineIsTheSpecInstance : Prop :=
  (∀ (i : Instr) (s : State), execWith Config.spec i s = exec i s) ∧ ∀ s : State, stepWith Config.spec s = step s

/-- 00_scope.md R5 and 20_memory.md R61: no rule reads the OPEN parameters `PIPE_SERVICE_INDEX` and `UNIT_BASE`, so no
instruction and no step depends on them. -/
def Obligations.OpenParametersAreNotRead : Prop :=
  ∀ (c : Config) (serviceIndex : Byte) (base : Nat) (i : Instr) (s : State),
    execWith { c with pipeServiceIndex := serviceIndex, unitBase := base } i s = execWith c i s ∧
    stepWith { c with pipeServiceIndex := serviceIndex, unitBase := base } s = stepWith c s

/-- 41_command_codes.md R130 and R134 at the alternative SET_REG class that 92_eei_decisions.md D16 keeps as a parameter:
CMD_MAKE_SET makes 0x2000 and the register number, CMD_CLASSIFY calls 0x2000 to 0x2FFF SET_REG, and 0x3000 to 0x7FFF
become `OTHER`. -/
def Obligations.AlternativeSetClass : Prop :=
  ∀ (s : State) (v : Nat), v = s.arg0.toNat →
    (v < 0x1000 → execWith Config.setAlternative .cmdMakeSet s = .next { s with
      res0 := BitVec.ofNat 64 (0x2000 + v), status := 0x0600 }) ∧
    (0x2000 ≤ v → v < 0x3000 → execWith Config.setAlternative .cmdClassify s = .next { s with
      res0 := 2, res1 := BitVec.ofNat 64 (v % 4096),
      res2 := BitVec.ofNat 64 (regRange (BitVec.ofNat 12 v)).code, status := 0x0400 }) ∧
    (0x3000 ≤ v → v < 0x8000 → execWith Config.setAlternative .cmdClassify s = .next { s with
      res0 := 0, res1 := 0, res2 := 0, status := 0x0400 })
end

