-- ==== Sys2Proof/Laws/Access.lean ====
section
/-! SUPPORT. What a step does with the queue: the cases of `performNext`, cited instead of unfolding `step`. -/

namespace Sys2Proof.Machine

/-- The two cases of a step: idle with no request (20_memory.md R55), else the first request performed on the state
without it (R57). -/
theorem performNext_cases (c : Config) (run : Runner) (s : State) :
    (s.hostq = [] ∧ performNext c run s = .next s) ∨
    (∃ a q, s.hostq = a :: q ∧ performNext c run s = perform c run a (s.setHostq q)) := by
  unfold performNext
  cases s.hostq with
  | nil => exact .inl ⟨rfl, rfl⟩
  | cons a q => exact .inr ⟨a, q, rfl, rfl⟩

/-- A step with a request first in the queue. -/
theorem step_request (s : State) (a : HostAccess) (q : List HostAccess) :
    step { s with hostq := a :: q } = perform Config.spec exec a { s with hostq := q } := rfl

/-- The same of a unit with the parameters `c`. -/
theorem stepWith_request (c : Config) (s : State) (a : HostAccess) (q : List HostAccess) :
    stepWith c { s with hostq := a :: q } = perform c (execWith c) a { s with hostq := q } := rfl

/-- A write to `OPREG` runs the operation its low four bits select (20_memory.md R51, R55). -/
theorem perform_opreg (c : Config) (run : Runner) (v : Word) (s : State) :
    perform c run (.writeReg 0x0F v) s = run (decodeOp (v.extractLsb' 0 4)) s := rfl

/-- A write to any other register number goes to the register space (20_memory.md R51). -/
theorem perform_writeReg_ne (c : Config) (run : Runner) {n : BitVec 8} (h : n ≠ 0x0F) (v : Word) (s : State) :
    perform c run (.writeReg n v) s = .next (s.hostWriteReg n v) := if_neg h

end Sys2Proof.Machine
end

