-- ==== Sys2Proof/Laws/State.lean ====
section
/-! SUPPORT. One lemma per field of `State` per update of Machine/Ops.lean, and the reads of `FB` and `PT` after each,
so that no proof unfolds a record update. Each is true by `rfl`. -/

namespace Sys2Proof.Machine

section
variable (s : State) (v : Half)
@[simp] theorem setStatus_status : (s.setStatus v).status = v := rfl
@[simp] theorem setStatus_crc : (s.setStatus v).crc = s.crc := rfl
@[simp] theorem setStatus_flen : (s.setStatus v).flen = s.flen := rfl
@[simp] theorem setStatus_pcount : (s.setStatus v).pcount = s.pcount := rfl
@[simp] theorem setStatus_fflags : (s.setStatus v).fflags = s.fflags := rfl
@[simp] theorem setStatus_devid : (s.setStatus v).devid = s.devid := rfl
@[simp] theorem setStatus_arg0 : (s.setStatus v).arg0 = s.arg0 := rfl
@[simp] theorem setStatus_arg1 : (s.setStatus v).arg1 = s.arg1 := rfl
@[simp] theorem setStatus_arg2 : (s.setStatus v).arg2 = s.arg2 := rfl
@[simp] theorem setStatus_res0 : (s.setStatus v).res0 = s.res0 := rfl
@[simp] theorem setStatus_res1 : (s.setStatus v).res1 = s.res1 := rfl
@[simp] theorem setStatus_res2 : (s.setStatus v).res2 = s.res2 := rfl
@[simp] theorem setStatus_fb : (s.setStatus v).fb = s.fb := rfl
@[simp] theorem setStatus_pt : (s.setStatus v).pt = s.pt := rfl
@[simp] theorem setStatus_epoch : (s.setStatus v).epoch = s.epoch := rfl
@[simp] theorem setStatus_hostq : (s.setStatus v).hostq = s.hostq := rfl
@[simp] theorem setStatus_reads : (s.setStatus v).reads = s.reads := rfl
@[simp] theorem setStatus_fbByte (a : Nat) : (s.setStatus v).fbByte a = s.fbByte a := rfl
@[simp] theorem setStatus_fbRange (a n : Nat) : (s.setStatus v).fbRange a n = s.fbRange a n := rfl
@[simp] theorem setStatus_ptSI (k : Nat) : (s.setStatus v).ptSI k = s.ptSI k := rfl
@[simp] theorem setStatus_ptCMD (k : Nat) : (s.setStatus v).ptCMD k = s.ptCMD k := rfl
@[simp] theorem setStatus_ptPLEN (k : Nat) : (s.setStatus v).ptPLEN k = s.ptPLEN k := rfl
@[simp] theorem setStatus_ptByte (c : Config) (k j : Nat) : (s.setStatus v).ptByte c k j = s.ptByte c k j := rfl
end

section
variable (s : State) (v : Half)
@[simp] theorem setCrc_status : (s.setCrc v).status = s.status := rfl
@[simp] theorem setCrc_crc : (s.setCrc v).crc = v := rfl
@[simp] theorem setCrc_flen : (s.setCrc v).flen = s.flen := rfl
@[simp] theorem setCrc_pcount : (s.setCrc v).pcount = s.pcount := rfl
@[simp] theorem setCrc_fflags : (s.setCrc v).fflags = s.fflags := rfl
@[simp] theorem setCrc_devid : (s.setCrc v).devid = s.devid := rfl
@[simp] theorem setCrc_arg0 : (s.setCrc v).arg0 = s.arg0 := rfl
@[simp] theorem setCrc_arg1 : (s.setCrc v).arg1 = s.arg1 := rfl
@[simp] theorem setCrc_arg2 : (s.setCrc v).arg2 = s.arg2 := rfl
@[simp] theorem setCrc_res0 : (s.setCrc v).res0 = s.res0 := rfl
@[simp] theorem setCrc_res1 : (s.setCrc v).res1 = s.res1 := rfl
@[simp] theorem setCrc_res2 : (s.setCrc v).res2 = s.res2 := rfl
@[simp] theorem setCrc_fb : (s.setCrc v).fb = s.fb := rfl
@[simp] theorem setCrc_pt : (s.setCrc v).pt = s.pt := rfl
@[simp] theorem setCrc_epoch : (s.setCrc v).epoch = s.epoch := rfl
@[simp] theorem setCrc_hostq : (s.setCrc v).hostq = s.hostq := rfl
@[simp] theorem setCrc_reads : (s.setCrc v).reads = s.reads := rfl
@[simp] theorem setCrc_fbByte (a : Nat) : (s.setCrc v).fbByte a = s.fbByte a := rfl
@[simp] theorem setCrc_fbRange (a n : Nat) : (s.setCrc v).fbRange a n = s.fbRange a n := rfl
@[simp] theorem setCrc_ptSI (k : Nat) : (s.setCrc v).ptSI k = s.ptSI k := rfl
@[simp] theorem setCrc_ptCMD (k : Nat) : (s.setCrc v).ptCMD k = s.ptCMD k := rfl
@[simp] theorem setCrc_ptPLEN (k : Nat) : (s.setCrc v).ptPLEN k = s.ptPLEN k := rfl
@[simp] theorem setCrc_ptByte (c : Config) (k j : Nat) : (s.setCrc v).ptByte c k j = s.ptByte c k j := rfl
end

section
variable (s : State) (v : Byte)
@[simp] theorem setFlen_status : (s.setFlen v).status = s.status := rfl
@[simp] theorem setFlen_crc : (s.setFlen v).crc = s.crc := rfl
@[simp] theorem setFlen_flen : (s.setFlen v).flen = v := rfl
@[simp] theorem setFlen_pcount : (s.setFlen v).pcount = s.pcount := rfl
@[simp] theorem setFlen_fflags : (s.setFlen v).fflags = s.fflags := rfl
@[simp] theorem setFlen_devid : (s.setFlen v).devid = s.devid := rfl
@[simp] theorem setFlen_arg0 : (s.setFlen v).arg0 = s.arg0 := rfl
@[simp] theorem setFlen_arg1 : (s.setFlen v).arg1 = s.arg1 := rfl
@[simp] theorem setFlen_arg2 : (s.setFlen v).arg2 = s.arg2 := rfl
@[simp] theorem setFlen_res0 : (s.setFlen v).res0 = s.res0 := rfl
@[simp] theorem setFlen_res1 : (s.setFlen v).res1 = s.res1 := rfl
@[simp] theorem setFlen_res2 : (s.setFlen v).res2 = s.res2 := rfl
@[simp] theorem setFlen_fb : (s.setFlen v).fb = s.fb := rfl
@[simp] theorem setFlen_pt : (s.setFlen v).pt = s.pt := rfl
@[simp] theorem setFlen_epoch : (s.setFlen v).epoch = s.epoch := rfl
@[simp] theorem setFlen_hostq : (s.setFlen v).hostq = s.hostq := rfl
@[simp] theorem setFlen_reads : (s.setFlen v).reads = s.reads := rfl
@[simp] theorem setFlen_fbByte (a : Nat) : (s.setFlen v).fbByte a = s.fbByte a := rfl
@[simp] theorem setFlen_fbRange (a n : Nat) : (s.setFlen v).fbRange a n = s.fbRange a n := rfl
@[simp] theorem setFlen_ptSI (k : Nat) : (s.setFlen v).ptSI k = s.ptSI k := rfl
@[simp] theorem setFlen_ptCMD (k : Nat) : (s.setFlen v).ptCMD k = s.ptCMD k := rfl
@[simp] theorem setFlen_ptPLEN (k : Nat) : (s.setFlen v).ptPLEN k = s.ptPLEN k := rfl
@[simp] theorem setFlen_ptByte (c : Config) (k j : Nat) : (s.setFlen v).ptByte c k j = s.ptByte c k j := rfl
end

section
variable (s : State) (v : Byte)
@[simp] theorem setPcount_status : (s.setPcount v).status = s.status := rfl
@[simp] theorem setPcount_crc : (s.setPcount v).crc = s.crc := rfl
@[simp] theorem setPcount_flen : (s.setPcount v).flen = s.flen := rfl
@[simp] theorem setPcount_pcount : (s.setPcount v).pcount = v := rfl
@[simp] theorem setPcount_fflags : (s.setPcount v).fflags = s.fflags := rfl
@[simp] theorem setPcount_devid : (s.setPcount v).devid = s.devid := rfl
@[simp] theorem setPcount_arg0 : (s.setPcount v).arg0 = s.arg0 := rfl
@[simp] theorem setPcount_arg1 : (s.setPcount v).arg1 = s.arg1 := rfl
@[simp] theorem setPcount_arg2 : (s.setPcount v).arg2 = s.arg2 := rfl
@[simp] theorem setPcount_res0 : (s.setPcount v).res0 = s.res0 := rfl
@[simp] theorem setPcount_res1 : (s.setPcount v).res1 = s.res1 := rfl
@[simp] theorem setPcount_res2 : (s.setPcount v).res2 = s.res2 := rfl
@[simp] theorem setPcount_fb : (s.setPcount v).fb = s.fb := rfl
@[simp] theorem setPcount_pt : (s.setPcount v).pt = s.pt := rfl
@[simp] theorem setPcount_epoch : (s.setPcount v).epoch = s.epoch := rfl
@[simp] theorem setPcount_hostq : (s.setPcount v).hostq = s.hostq := rfl
@[simp] theorem setPcount_reads : (s.setPcount v).reads = s.reads := rfl
@[simp] theorem setPcount_fbByte (a : Nat) : (s.setPcount v).fbByte a = s.fbByte a := rfl
@[simp] theorem setPcount_fbRange (a n : Nat) : (s.setPcount v).fbRange a n = s.fbRange a n := rfl
@[simp] theorem setPcount_ptSI (k : Nat) : (s.setPcount v).ptSI k = s.ptSI k := rfl
@[simp] theorem setPcount_ptCMD (k : Nat) : (s.setPcount v).ptCMD k = s.ptCMD k := rfl
@[simp] theorem setPcount_ptPLEN (k : Nat) : (s.setPcount v).ptPLEN k = s.ptPLEN k := rfl
@[simp] theorem setPcount_ptByte (c : Config) (k j : Nat) : (s.setPcount v).ptByte c k j = s.ptByte c k j := rfl
end

section
variable (s : State) (v : Byte)
@[simp] theorem setFflags_status : (s.setFflags v).status = s.status := rfl
@[simp] theorem setFflags_crc : (s.setFflags v).crc = s.crc := rfl
@[simp] theorem setFflags_flen : (s.setFflags v).flen = s.flen := rfl
@[simp] theorem setFflags_pcount : (s.setFflags v).pcount = s.pcount := rfl
@[simp] theorem setFflags_fflags : (s.setFflags v).fflags = v := rfl
@[simp] theorem setFflags_devid : (s.setFflags v).devid = s.devid := rfl
@[simp] theorem setFflags_arg0 : (s.setFflags v).arg0 = s.arg0 := rfl
@[simp] theorem setFflags_arg1 : (s.setFflags v).arg1 = s.arg1 := rfl
@[simp] theorem setFflags_arg2 : (s.setFflags v).arg2 = s.arg2 := rfl
@[simp] theorem setFflags_res0 : (s.setFflags v).res0 = s.res0 := rfl
@[simp] theorem setFflags_res1 : (s.setFflags v).res1 = s.res1 := rfl
@[simp] theorem setFflags_res2 : (s.setFflags v).res2 = s.res2 := rfl
@[simp] theorem setFflags_fb : (s.setFflags v).fb = s.fb := rfl
@[simp] theorem setFflags_pt : (s.setFflags v).pt = s.pt := rfl
@[simp] theorem setFflags_epoch : (s.setFflags v).epoch = s.epoch := rfl
@[simp] theorem setFflags_hostq : (s.setFflags v).hostq = s.hostq := rfl
@[simp] theorem setFflags_reads : (s.setFflags v).reads = s.reads := rfl
@[simp] theorem setFflags_fbByte (a : Nat) : (s.setFflags v).fbByte a = s.fbByte a := rfl
@[simp] theorem setFflags_fbRange (a n : Nat) : (s.setFflags v).fbRange a n = s.fbRange a n := rfl
@[simp] theorem setFflags_ptSI (k : Nat) : (s.setFflags v).ptSI k = s.ptSI k := rfl
@[simp] theorem setFflags_ptCMD (k : Nat) : (s.setFflags v).ptCMD k = s.ptCMD k := rfl
@[simp] theorem setFflags_ptPLEN (k : Nat) : (s.setFflags v).ptPLEN k = s.ptPLEN k := rfl
@[simp] theorem setFflags_ptByte (c : Config) (k j : Nat) : (s.setFflags v).ptByte c k j = s.ptByte c k j := rfl
end

section
variable (s : State) (v : Word)
@[simp] theorem setDevid_status : (s.setDevid v).status = s.status := rfl
@[simp] theorem setDevid_crc : (s.setDevid v).crc = s.crc := rfl
@[simp] theorem setDevid_flen : (s.setDevid v).flen = s.flen := rfl
@[simp] theorem setDevid_pcount : (s.setDevid v).pcount = s.pcount := rfl
@[simp] theorem setDevid_fflags : (s.setDevid v).fflags = s.fflags := rfl
@[simp] theorem setDevid_devid : (s.setDevid v).devid = v := rfl
@[simp] theorem setDevid_arg0 : (s.setDevid v).arg0 = s.arg0 := rfl
@[simp] theorem setDevid_arg1 : (s.setDevid v).arg1 = s.arg1 := rfl
@[simp] theorem setDevid_arg2 : (s.setDevid v).arg2 = s.arg2 := rfl
@[simp] theorem setDevid_res0 : (s.setDevid v).res0 = s.res0 := rfl
@[simp] theorem setDevid_res1 : (s.setDevid v).res1 = s.res1 := rfl
@[simp] theorem setDevid_res2 : (s.setDevid v).res2 = s.res2 := rfl
@[simp] theorem setDevid_fb : (s.setDevid v).fb = s.fb := rfl
@[simp] theorem setDevid_pt : (s.setDevid v).pt = s.pt := rfl
@[simp] theorem setDevid_epoch : (s.setDevid v).epoch = s.epoch := rfl
@[simp] theorem setDevid_hostq : (s.setDevid v).hostq = s.hostq := rfl
@[simp] theorem setDevid_reads : (s.setDevid v).reads = s.reads := rfl
@[simp] theorem setDevid_fbByte (a : Nat) : (s.setDevid v).fbByte a = s.fbByte a := rfl
@[simp] theorem setDevid_fbRange (a n : Nat) : (s.setDevid v).fbRange a n = s.fbRange a n := rfl
@[simp] theorem setDevid_ptSI (k : Nat) : (s.setDevid v).ptSI k = s.ptSI k := rfl
@[simp] theorem setDevid_ptCMD (k : Nat) : (s.setDevid v).ptCMD k = s.ptCMD k := rfl
@[simp] theorem setDevid_ptPLEN (k : Nat) : (s.setDevid v).ptPLEN k = s.ptPLEN k := rfl
@[simp] theorem setDevid_ptByte (c : Config) (k j : Nat) : (s.setDevid v).ptByte c k j = s.ptByte c k j := rfl
end

section
variable (s : State) (v : Word)
@[simp] theorem setArg0_status : (s.setArg0 v).status = s.status := rfl
@[simp] theorem setArg0_crc : (s.setArg0 v).crc = s.crc := rfl
@[simp] theorem setArg0_flen : (s.setArg0 v).flen = s.flen := rfl
@[simp] theorem setArg0_pcount : (s.setArg0 v).pcount = s.pcount := rfl
@[simp] theorem setArg0_fflags : (s.setArg0 v).fflags = s.fflags := rfl
@[simp] theorem setArg0_devid : (s.setArg0 v).devid = s.devid := rfl
@[simp] theorem setArg0_arg0 : (s.setArg0 v).arg0 = v := rfl
@[simp] theorem setArg0_arg1 : (s.setArg0 v).arg1 = s.arg1 := rfl
@[simp] theorem setArg0_arg2 : (s.setArg0 v).arg2 = s.arg2 := rfl
@[simp] theorem setArg0_res0 : (s.setArg0 v).res0 = s.res0 := rfl
@[simp] theorem setArg0_res1 : (s.setArg0 v).res1 = s.res1 := rfl
@[simp] theorem setArg0_res2 : (s.setArg0 v).res2 = s.res2 := rfl
@[simp] theorem setArg0_fb : (s.setArg0 v).fb = s.fb := rfl
@[simp] theorem setArg0_pt : (s.setArg0 v).pt = s.pt := rfl
@[simp] theorem setArg0_epoch : (s.setArg0 v).epoch = s.epoch := rfl
@[simp] theorem setArg0_hostq : (s.setArg0 v).hostq = s.hostq := rfl
@[simp] theorem setArg0_reads : (s.setArg0 v).reads = s.reads := rfl
@[simp] theorem setArg0_fbByte (a : Nat) : (s.setArg0 v).fbByte a = s.fbByte a := rfl
@[simp] theorem setArg0_fbRange (a n : Nat) : (s.setArg0 v).fbRange a n = s.fbRange a n := rfl
@[simp] theorem setArg0_ptSI (k : Nat) : (s.setArg0 v).ptSI k = s.ptSI k := rfl
@[simp] theorem setArg0_ptCMD (k : Nat) : (s.setArg0 v).ptCMD k = s.ptCMD k := rfl
@[simp] theorem setArg0_ptPLEN (k : Nat) : (s.setArg0 v).ptPLEN k = s.ptPLEN k := rfl
@[simp] theorem setArg0_ptByte (c : Config) (k j : Nat) : (s.setArg0 v).ptByte c k j = s.ptByte c k j := rfl
end

section
variable (s : State) (v : Word)
@[simp] theorem setArg1_status : (s.setArg1 v).status = s.status := rfl
@[simp] theorem setArg1_crc : (s.setArg1 v).crc = s.crc := rfl
@[simp] theorem setArg1_flen : (s.setArg1 v).flen = s.flen := rfl
@[simp] theorem setArg1_pcount : (s.setArg1 v).pcount = s.pcount := rfl
@[simp] theorem setArg1_fflags : (s.setArg1 v).fflags = s.fflags := rfl
@[simp] theorem setArg1_devid : (s.setArg1 v).devid = s.devid := rfl
@[simp] theorem setArg1_arg0 : (s.setArg1 v).arg0 = s.arg0 := rfl
@[simp] theorem setArg1_arg1 : (s.setArg1 v).arg1 = v := rfl
@[simp] theorem setArg1_arg2 : (s.setArg1 v).arg2 = s.arg2 := rfl
@[simp] theorem setArg1_res0 : (s.setArg1 v).res0 = s.res0 := rfl
@[simp] theorem setArg1_res1 : (s.setArg1 v).res1 = s.res1 := rfl
@[simp] theorem setArg1_res2 : (s.setArg1 v).res2 = s.res2 := rfl
@[simp] theorem setArg1_fb : (s.setArg1 v).fb = s.fb := rfl
@[simp] theorem setArg1_pt : (s.setArg1 v).pt = s.pt := rfl
@[simp] theorem setArg1_epoch : (s.setArg1 v).epoch = s.epoch := rfl
@[simp] theorem setArg1_hostq : (s.setArg1 v).hostq = s.hostq := rfl
@[simp] theorem setArg1_reads : (s.setArg1 v).reads = s.reads := rfl
@[simp] theorem setArg1_fbByte (a : Nat) : (s.setArg1 v).fbByte a = s.fbByte a := rfl
@[simp] theorem setArg1_fbRange (a n : Nat) : (s.setArg1 v).fbRange a n = s.fbRange a n := rfl
@[simp] theorem setArg1_ptSI (k : Nat) : (s.setArg1 v).ptSI k = s.ptSI k := rfl
@[simp] theorem setArg1_ptCMD (k : Nat) : (s.setArg1 v).ptCMD k = s.ptCMD k := rfl
@[simp] theorem setArg1_ptPLEN (k : Nat) : (s.setArg1 v).ptPLEN k = s.ptPLEN k := rfl
@[simp] theorem setArg1_ptByte (c : Config) (k j : Nat) : (s.setArg1 v).ptByte c k j = s.ptByte c k j := rfl
end

section
variable (s : State) (v : Word)
@[simp] theorem setArg2_status : (s.setArg2 v).status = s.status := rfl
@[simp] theorem setArg2_crc : (s.setArg2 v).crc = s.crc := rfl
@[simp] theorem setArg2_flen : (s.setArg2 v).flen = s.flen := rfl
@[simp] theorem setArg2_pcount : (s.setArg2 v).pcount = s.pcount := rfl
@[simp] theorem setArg2_fflags : (s.setArg2 v).fflags = s.fflags := rfl
@[simp] theorem setArg2_devid : (s.setArg2 v).devid = s.devid := rfl
@[simp] theorem setArg2_arg0 : (s.setArg2 v).arg0 = s.arg0 := rfl
@[simp] theorem setArg2_arg1 : (s.setArg2 v).arg1 = s.arg1 := rfl
@[simp] theorem setArg2_arg2 : (s.setArg2 v).arg2 = v := rfl
@[simp] theorem setArg2_res0 : (s.setArg2 v).res0 = s.res0 := rfl
@[simp] theorem setArg2_res1 : (s.setArg2 v).res1 = s.res1 := rfl
@[simp] theorem setArg2_res2 : (s.setArg2 v).res2 = s.res2 := rfl
@[simp] theorem setArg2_fb : (s.setArg2 v).fb = s.fb := rfl
@[simp] theorem setArg2_pt : (s.setArg2 v).pt = s.pt := rfl
@[simp] theorem setArg2_epoch : (s.setArg2 v).epoch = s.epoch := rfl
@[simp] theorem setArg2_hostq : (s.setArg2 v).hostq = s.hostq := rfl
@[simp] theorem setArg2_reads : (s.setArg2 v).reads = s.reads := rfl
@[simp] theorem setArg2_fbByte (a : Nat) : (s.setArg2 v).fbByte a = s.fbByte a := rfl
@[simp] theorem setArg2_fbRange (a n : Nat) : (s.setArg2 v).fbRange a n = s.fbRange a n := rfl
@[simp] theorem setArg2_ptSI (k : Nat) : (s.setArg2 v).ptSI k = s.ptSI k := rfl
@[simp] theorem setArg2_ptCMD (k : Nat) : (s.setArg2 v).ptCMD k = s.ptCMD k := rfl
@[simp] theorem setArg2_ptPLEN (k : Nat) : (s.setArg2 v).ptPLEN k = s.ptPLEN k := rfl
@[simp] theorem setArg2_ptByte (c : Config) (k j : Nat) : (s.setArg2 v).ptByte c k j = s.ptByte c k j := rfl
end

section
variable (s : State) (v : Word)
@[simp] theorem setRes0_status : (s.setRes0 v).status = s.status := rfl
@[simp] theorem setRes0_crc : (s.setRes0 v).crc = s.crc := rfl
@[simp] theorem setRes0_flen : (s.setRes0 v).flen = s.flen := rfl
@[simp] theorem setRes0_pcount : (s.setRes0 v).pcount = s.pcount := rfl
@[simp] theorem setRes0_fflags : (s.setRes0 v).fflags = s.fflags := rfl
@[simp] theorem setRes0_devid : (s.setRes0 v).devid = s.devid := rfl
@[simp] theorem setRes0_arg0 : (s.setRes0 v).arg0 = s.arg0 := rfl
@[simp] theorem setRes0_arg1 : (s.setRes0 v).arg1 = s.arg1 := rfl
@[simp] theorem setRes0_arg2 : (s.setRes0 v).arg2 = s.arg2 := rfl
@[simp] theorem setRes0_res0 : (s.setRes0 v).res0 = v := rfl
@[simp] theorem setRes0_res1 : (s.setRes0 v).res1 = s.res1 := rfl
@[simp] theorem setRes0_res2 : (s.setRes0 v).res2 = s.res2 := rfl
@[simp] theorem setRes0_fb : (s.setRes0 v).fb = s.fb := rfl
@[simp] theorem setRes0_pt : (s.setRes0 v).pt = s.pt := rfl
@[simp] theorem setRes0_epoch : (s.setRes0 v).epoch = s.epoch := rfl
@[simp] theorem setRes0_hostq : (s.setRes0 v).hostq = s.hostq := rfl
@[simp] theorem setRes0_reads : (s.setRes0 v).reads = s.reads := rfl
@[simp] theorem setRes0_fbByte (a : Nat) : (s.setRes0 v).fbByte a = s.fbByte a := rfl
@[simp] theorem setRes0_fbRange (a n : Nat) : (s.setRes0 v).fbRange a n = s.fbRange a n := rfl
@[simp] theorem setRes0_ptSI (k : Nat) : (s.setRes0 v).ptSI k = s.ptSI k := rfl
@[simp] theorem setRes0_ptCMD (k : Nat) : (s.setRes0 v).ptCMD k = s.ptCMD k := rfl
@[simp] theorem setRes0_ptPLEN (k : Nat) : (s.setRes0 v).ptPLEN k = s.ptPLEN k := rfl
@[simp] theorem setRes0_ptByte (c : Config) (k j : Nat) : (s.setRes0 v).ptByte c k j = s.ptByte c k j := rfl
end

section
variable (s : State) (v : Word)
@[simp] theorem setRes1_status : (s.setRes1 v).status = s.status := rfl
@[simp] theorem setRes1_crc : (s.setRes1 v).crc = s.crc := rfl
@[simp] theorem setRes1_flen : (s.setRes1 v).flen = s.flen := rfl
@[simp] theorem setRes1_pcount : (s.setRes1 v).pcount = s.pcount := rfl
@[simp] theorem setRes1_fflags : (s.setRes1 v).fflags = s.fflags := rfl
@[simp] theorem setRes1_devid : (s.setRes1 v).devid = s.devid := rfl
@[simp] theorem setRes1_arg0 : (s.setRes1 v).arg0 = s.arg0 := rfl
@[simp] theorem setRes1_arg1 : (s.setRes1 v).arg1 = s.arg1 := rfl
@[simp] theorem setRes1_arg2 : (s.setRes1 v).arg2 = s.arg2 := rfl
@[simp] theorem setRes1_res0 : (s.setRes1 v).res0 = s.res0 := rfl
@[simp] theorem setRes1_res1 : (s.setRes1 v).res1 = v := rfl
@[simp] theorem setRes1_res2 : (s.setRes1 v).res2 = s.res2 := rfl
@[simp] theorem setRes1_fb : (s.setRes1 v).fb = s.fb := rfl
@[simp] theorem setRes1_pt : (s.setRes1 v).pt = s.pt := rfl
@[simp] theorem setRes1_epoch : (s.setRes1 v).epoch = s.epoch := rfl
@[simp] theorem setRes1_hostq : (s.setRes1 v).hostq = s.hostq := rfl
@[simp] theorem setRes1_reads : (s.setRes1 v).reads = s.reads := rfl
@[simp] theorem setRes1_fbByte (a : Nat) : (s.setRes1 v).fbByte a = s.fbByte a := rfl
@[simp] theorem setRes1_fbRange (a n : Nat) : (s.setRes1 v).fbRange a n = s.fbRange a n := rfl
@[simp] theorem setRes1_ptSI (k : Nat) : (s.setRes1 v).ptSI k = s.ptSI k := rfl
@[simp] theorem setRes1_ptCMD (k : Nat) : (s.setRes1 v).ptCMD k = s.ptCMD k := rfl
@[simp] theorem setRes1_ptPLEN (k : Nat) : (s.setRes1 v).ptPLEN k = s.ptPLEN k := rfl
@[simp] theorem setRes1_ptByte (c : Config) (k j : Nat) : (s.setRes1 v).ptByte c k j = s.ptByte c k j := rfl
end

section
variable (s : State) (v : Word)
@[simp] theorem setRes2_status : (s.setRes2 v).status = s.status := rfl
@[simp] theorem setRes2_crc : (s.setRes2 v).crc = s.crc := rfl
@[simp] theorem setRes2_flen : (s.setRes2 v).flen = s.flen := rfl
@[simp] theorem setRes2_pcount : (s.setRes2 v).pcount = s.pcount := rfl
@[simp] theorem setRes2_fflags : (s.setRes2 v).fflags = s.fflags := rfl
@[simp] theorem setRes2_devid : (s.setRes2 v).devid = s.devid := rfl
@[simp] theorem setRes2_arg0 : (s.setRes2 v).arg0 = s.arg0 := rfl
@[simp] theorem setRes2_arg1 : (s.setRes2 v).arg1 = s.arg1 := rfl
@[simp] theorem setRes2_arg2 : (s.setRes2 v).arg2 = s.arg2 := rfl
@[simp] theorem setRes2_res0 : (s.setRes2 v).res0 = s.res0 := rfl
@[simp] theorem setRes2_res1 : (s.setRes2 v).res1 = s.res1 := rfl
@[simp] theorem setRes2_res2 : (s.setRes2 v).res2 = v := rfl
@[simp] theorem setRes2_fb : (s.setRes2 v).fb = s.fb := rfl
@[simp] theorem setRes2_pt : (s.setRes2 v).pt = s.pt := rfl
@[simp] theorem setRes2_epoch : (s.setRes2 v).epoch = s.epoch := rfl
@[simp] theorem setRes2_hostq : (s.setRes2 v).hostq = s.hostq := rfl
@[simp] theorem setRes2_reads : (s.setRes2 v).reads = s.reads := rfl
@[simp] theorem setRes2_fbByte (a : Nat) : (s.setRes2 v).fbByte a = s.fbByte a := rfl
@[simp] theorem setRes2_fbRange (a n : Nat) : (s.setRes2 v).fbRange a n = s.fbRange a n := rfl
@[simp] theorem setRes2_ptSI (k : Nat) : (s.setRes2 v).ptSI k = s.ptSI k := rfl
@[simp] theorem setRes2_ptCMD (k : Nat) : (s.setRes2 v).ptCMD k = s.ptCMD k := rfl
@[simp] theorem setRes2_ptPLEN (k : Nat) : (s.setRes2 v).ptPLEN k = s.ptPLEN k := rfl
@[simp] theorem setRes2_ptByte (c : Config) (k j : Nat) : (s.setRes2 v).ptByte c k j = s.ptByte c k j := rfl
end

section
variable (s : State) (v : Memory 8)
@[simp] theorem setFb_status : (s.setFb v).status = s.status := rfl
@[simp] theorem setFb_crc : (s.setFb v).crc = s.crc := rfl
@[simp] theorem setFb_flen : (s.setFb v).flen = s.flen := rfl
@[simp] theorem setFb_pcount : (s.setFb v).pcount = s.pcount := rfl
@[simp] theorem setFb_fflags : (s.setFb v).fflags = s.fflags := rfl
@[simp] theorem setFb_devid : (s.setFb v).devid = s.devid := rfl
@[simp] theorem setFb_arg0 : (s.setFb v).arg0 = s.arg0 := rfl
@[simp] theorem setFb_arg1 : (s.setFb v).arg1 = s.arg1 := rfl
@[simp] theorem setFb_arg2 : (s.setFb v).arg2 = s.arg2 := rfl
@[simp] theorem setFb_res0 : (s.setFb v).res0 = s.res0 := rfl
@[simp] theorem setFb_res1 : (s.setFb v).res1 = s.res1 := rfl
@[simp] theorem setFb_res2 : (s.setFb v).res2 = s.res2 := rfl
@[simp] theorem setFb_fb : (s.setFb v).fb = v := rfl
@[simp] theorem setFb_pt : (s.setFb v).pt = s.pt := rfl
@[simp] theorem setFb_epoch : (s.setFb v).epoch = s.epoch := rfl
@[simp] theorem setFb_hostq : (s.setFb v).hostq = s.hostq := rfl
@[simp] theorem setFb_reads : (s.setFb v).reads = s.reads := rfl
@[simp] theorem setFb_ptSI (k : Nat) : (s.setFb v).ptSI k = s.ptSI k := rfl
@[simp] theorem setFb_ptCMD (k : Nat) : (s.setFb v).ptCMD k = s.ptCMD k := rfl
@[simp] theorem setFb_ptPLEN (k : Nat) : (s.setFb v).ptPLEN k = s.ptPLEN k := rfl
@[simp] theorem setFb_ptByte (c : Config) (k j : Nat) : (s.setFb v).ptByte c k j = s.ptByte c k j := rfl
end

section
variable (s : State) (v : PacketTable)
@[simp] theorem setPt_status : (s.setPt v).status = s.status := rfl
@[simp] theorem setPt_crc : (s.setPt v).crc = s.crc := rfl
@[simp] theorem setPt_flen : (s.setPt v).flen = s.flen := rfl
@[simp] theorem setPt_pcount : (s.setPt v).pcount = s.pcount := rfl
@[simp] theorem setPt_fflags : (s.setPt v).fflags = s.fflags := rfl
@[simp] theorem setPt_devid : (s.setPt v).devid = s.devid := rfl
@[simp] theorem setPt_arg0 : (s.setPt v).arg0 = s.arg0 := rfl
@[simp] theorem setPt_arg1 : (s.setPt v).arg1 = s.arg1 := rfl
@[simp] theorem setPt_arg2 : (s.setPt v).arg2 = s.arg2 := rfl
@[simp] theorem setPt_res0 : (s.setPt v).res0 = s.res0 := rfl
@[simp] theorem setPt_res1 : (s.setPt v).res1 = s.res1 := rfl
@[simp] theorem setPt_res2 : (s.setPt v).res2 = s.res2 := rfl
@[simp] theorem setPt_fb : (s.setPt v).fb = s.fb := rfl
@[simp] theorem setPt_pt : (s.setPt v).pt = v := rfl
@[simp] theorem setPt_epoch : (s.setPt v).epoch = s.epoch := rfl
@[simp] theorem setPt_hostq : (s.setPt v).hostq = s.hostq := rfl
@[simp] theorem setPt_reads : (s.setPt v).reads = s.reads := rfl
@[simp] theorem setPt_fbByte (a : Nat) : (s.setPt v).fbByte a = s.fbByte a := rfl
@[simp] theorem setPt_fbRange (a n : Nat) : (s.setPt v).fbRange a n = s.fbRange a n := rfl
end

section
variable (s : State) (v : List HostAccess)
@[simp] theorem setHostq_status : (s.setHostq v).status = s.status := rfl
@[simp] theorem setHostq_crc : (s.setHostq v).crc = s.crc := rfl
@[simp] theorem setHostq_flen : (s.setHostq v).flen = s.flen := rfl
@[simp] theorem setHostq_pcount : (s.setHostq v).pcount = s.pcount := rfl
@[simp] theorem setHostq_fflags : (s.setHostq v).fflags = s.fflags := rfl
@[simp] theorem setHostq_devid : (s.setHostq v).devid = s.devid := rfl
@[simp] theorem setHostq_arg0 : (s.setHostq v).arg0 = s.arg0 := rfl
@[simp] theorem setHostq_arg1 : (s.setHostq v).arg1 = s.arg1 := rfl
@[simp] theorem setHostq_arg2 : (s.setHostq v).arg2 = s.arg2 := rfl
@[simp] theorem setHostq_res0 : (s.setHostq v).res0 = s.res0 := rfl
@[simp] theorem setHostq_res1 : (s.setHostq v).res1 = s.res1 := rfl
@[simp] theorem setHostq_res2 : (s.setHostq v).res2 = s.res2 := rfl
@[simp] theorem setHostq_fb : (s.setHostq v).fb = s.fb := rfl
@[simp] theorem setHostq_pt : (s.setHostq v).pt = s.pt := rfl
@[simp] theorem setHostq_epoch : (s.setHostq v).epoch = s.epoch := rfl
@[simp] theorem setHostq_hostq : (s.setHostq v).hostq = v := rfl
@[simp] theorem setHostq_reads : (s.setHostq v).reads = s.reads := rfl
@[simp] theorem setHostq_fbByte (a : Nat) : (s.setHostq v).fbByte a = s.fbByte a := rfl
@[simp] theorem setHostq_fbRange (a n : Nat) : (s.setHostq v).fbRange a n = s.fbRange a n := rfl
@[simp] theorem setHostq_ptSI (k : Nat) : (s.setHostq v).ptSI k = s.ptSI k := rfl
@[simp] theorem setHostq_ptCMD (k : Nat) : (s.setHostq v).ptCMD k = s.ptCMD k := rfl
@[simp] theorem setHostq_ptPLEN (k : Nat) : (s.setHostq v).ptPLEN k = s.ptPLEN k := rfl
@[simp] theorem setHostq_ptByte (c : Config) (k j : Nat) : (s.setHostq v).ptByte c k j = s.ptByte c k j := rfl
end

section
variable (s : State) (v : Word)
@[simp] theorem logRead_status : (s.logRead v).status = s.status := rfl
@[simp] theorem logRead_crc : (s.logRead v).crc = s.crc := rfl
@[simp] theorem logRead_flen : (s.logRead v).flen = s.flen := rfl
@[simp] theorem logRead_pcount : (s.logRead v).pcount = s.pcount := rfl
@[simp] theorem logRead_fflags : (s.logRead v).fflags = s.fflags := rfl
@[simp] theorem logRead_devid : (s.logRead v).devid = s.devid := rfl
@[simp] theorem logRead_arg0 : (s.logRead v).arg0 = s.arg0 := rfl
@[simp] theorem logRead_arg1 : (s.logRead v).arg1 = s.arg1 := rfl
@[simp] theorem logRead_arg2 : (s.logRead v).arg2 = s.arg2 := rfl
@[simp] theorem logRead_res0 : (s.logRead v).res0 = s.res0 := rfl
@[simp] theorem logRead_res1 : (s.logRead v).res1 = s.res1 := rfl
@[simp] theorem logRead_res2 : (s.logRead v).res2 = s.res2 := rfl
@[simp] theorem logRead_fb : (s.logRead v).fb = s.fb := rfl
@[simp] theorem logRead_pt : (s.logRead v).pt = s.pt := rfl
@[simp] theorem logRead_epoch : (s.logRead v).epoch = s.epoch := rfl
@[simp] theorem logRead_hostq : (s.logRead v).hostq = s.hostq := rfl
@[simp] theorem logRead_reads : (s.logRead v).reads = s.reads ++ [v] := rfl
end

section
variable (s : State) (op : BitVec 4) (e : ErrCode)
@[simp] theorem raiseError_status : (s.raiseError op e).status = statusWord e false false op := rfl
@[simp] theorem raiseError_crc : (s.raiseError op e).crc = s.crc := rfl
@[simp] theorem raiseError_flen : (s.raiseError op e).flen = s.flen := rfl
@[simp] theorem raiseError_pcount : (s.raiseError op e).pcount = s.pcount := rfl
@[simp] theorem raiseError_fflags : (s.raiseError op e).fflags = s.fflags := rfl
@[simp] theorem raiseError_devid : (s.raiseError op e).devid = s.devid := rfl
@[simp] theorem raiseError_arg0 : (s.raiseError op e).arg0 = s.arg0 := rfl
@[simp] theorem raiseError_arg1 : (s.raiseError op e).arg1 = s.arg1 := rfl
@[simp] theorem raiseError_arg2 : (s.raiseError op e).arg2 = s.arg2 := rfl
@[simp] theorem raiseError_res0 : (s.raiseError op e).res0 = s.res0 := rfl
@[simp] theorem raiseError_res1 : (s.raiseError op e).res1 = s.res1 := rfl
@[simp] theorem raiseError_res2 : (s.raiseError op e).res2 = s.res2 := rfl
@[simp] theorem raiseError_fb : (s.raiseError op e).fb = s.fb := rfl
@[simp] theorem raiseError_pt : (s.raiseError op e).pt = s.pt := rfl
@[simp] theorem raiseError_epoch : (s.raiseError op e).epoch = s.epoch := rfl
@[simp] theorem raiseError_hostq : (s.raiseError op e).hostq = s.hostq := rfl
@[simp] theorem raiseError_reads : (s.raiseError op e).reads = s.reads := rfl
@[simp] theorem raiseError_fbByte (a : Nat) : (s.raiseError op e).fbByte a = s.fbByte a := rfl
@[simp] theorem raiseError_fbRange (a m : Nat) : (s.raiseError op e).fbRange a m = s.fbRange a m := rfl
@[simp] theorem raiseError_ptSI (k : Nat) : (s.raiseError op e).ptSI k = s.ptSI k := rfl
@[simp] theorem raiseError_ptCMD (k : Nat) : (s.raiseError op e).ptCMD k = s.ptCMD k := rfl
@[simp] theorem raiseError_ptPLEN (k : Nat) : (s.raiseError op e).ptPLEN k = s.ptPLEN k := rfl
@[simp] theorem raiseError_ptByte (c : Config) (k j : Nat) : (s.raiseError op e).ptByte c k j = s.ptByte c k j := rfl
end

section
variable (s : State) (op : BitVec 4) (t p : Bool)
@[simp] theorem finish_status : (s.finish op t p).status = statusWord .ok t p op := rfl
@[simp] theorem finish_crc : (s.finish op t p).crc = s.crc := rfl
@[simp] theorem finish_flen : (s.finish op t p).flen = s.flen := rfl
@[simp] theorem finish_pcount : (s.finish op t p).pcount = s.pcount := rfl
@[simp] theorem finish_fflags : (s.finish op t p).fflags = s.fflags := rfl
@[simp] theorem finish_devid : (s.finish op t p).devid = s.devid := rfl
@[simp] theorem finish_arg0 : (s.finish op t p).arg0 = s.arg0 := rfl
@[simp] theorem finish_arg1 : (s.finish op t p).arg1 = s.arg1 := rfl
@[simp] theorem finish_arg2 : (s.finish op t p).arg2 = s.arg2 := rfl
@[simp] theorem finish_res0 : (s.finish op t p).res0 = s.res0 := rfl
@[simp] theorem finish_res1 : (s.finish op t p).res1 = s.res1 := rfl
@[simp] theorem finish_res2 : (s.finish op t p).res2 = s.res2 := rfl
@[simp] theorem finish_fb : (s.finish op t p).fb = s.fb := rfl
@[simp] theorem finish_pt : (s.finish op t p).pt = s.pt := rfl
@[simp] theorem finish_epoch : (s.finish op t p).epoch = s.epoch := rfl
@[simp] theorem finish_hostq : (s.finish op t p).hostq = s.hostq := rfl
@[simp] theorem finish_reads : (s.finish op t p).reads = s.reads := rfl
@[simp] theorem finish_fbByte (a : Nat) : (s.finish op t p).fbByte a = s.fbByte a := rfl
@[simp] theorem finish_fbRange (a m : Nat) : (s.finish op t p).fbRange a m = s.fbRange a m := rfl
@[simp] theorem finish_ptSI (k : Nat) : (s.finish op t p).ptSI k = s.ptSI k := rfl
@[simp] theorem finish_ptCMD (k : Nat) : (s.finish op t p).ptCMD k = s.ptCMD k := rfl
@[simp] theorem finish_ptPLEN (k : Nat) : (s.finish op t p).ptPLEN k = s.ptPLEN k := rfl
@[simp] theorem finish_ptByte (c : Config) (k j : Nat) : (s.finish op t p).ptByte c k j = s.ptByte c k j := rfl
end

section
variable (pt : PacketTable) (k : Nat)
@[simp] theorem writeSI_si (v : Byte) : (pt.writeSI k v).si = Memory.poke pt.si k v := rfl
@[simp] theorem writeSI_cmd (v : Byte) : (pt.writeSI k v).cmd = pt.cmd := rfl
@[simp] theorem writeSI_plen (v : Byte) : (pt.writeSI k v).plen = pt.plen := rfl
@[simp] theorem writeSI_payload (v : Byte) : (pt.writeSI k v).payload = pt.payload := rfl
@[simp] theorem writeCMD_si (v : Half) : (pt.writeCMD k v).si = pt.si := rfl
@[simp] theorem writeCMD_cmd (v : Half) : (pt.writeCMD k v).cmd = Memory.poke pt.cmd k v := rfl
@[simp] theorem writeCMD_plen (v : Half) : (pt.writeCMD k v).plen = pt.plen := rfl
@[simp] theorem writeCMD_payload (v : Half) : (pt.writeCMD k v).payload = pt.payload := rfl
@[simp] theorem writePLEN_si (v : Byte) : (pt.writePLEN k v).si = pt.si := rfl
@[simp] theorem writePLEN_cmd (v : Byte) : (pt.writePLEN k v).cmd = pt.cmd := rfl
@[simp] theorem writePLEN_plen (v : Byte) : (pt.writePLEN k v).plen = Memory.poke pt.plen k v := rfl
@[simp] theorem writePLEN_payload (v : Byte) : (pt.writePLEN k v).payload = pt.payload := rfl
@[simp] theorem writePayload_si (c : Config) (j : Nat) (bs : List Byte) :
    (pt.writePayload c k j bs).si = pt.si := rfl
@[simp] theorem writePayload_cmd (c : Config) (j : Nat) (bs : List Byte) :
    (pt.writePayload c k j bs).cmd = pt.cmd := rfl
@[simp] theorem writePayload_plen (c : Config) (j : Nat) (bs : List Byte) :
    (pt.writePayload c k j bs).plen = pt.plen := rfl
@[simp] theorem writePayload_payload (c : Config) (j : Nat) (bs : List Byte) :
    (pt.writePayload c k j bs).payload = Memory.pokeList pt.payload (payloadKey c k j) bs := rfl
end

end Sys2Proof.Machine
end

