-- ==== Sys2Proof/Laws/Memory.lean ====
section
/-! SUPPORT. What the memory operations do, once each: reading after writing, and that every operation keeps the
canonical form and the bounds. No lemma about reading needs the canonical form. -/

namespace Sys2Proof.Machine

variable {w : Nat}

/-- Reading after one write. -/
theorem peek_poke (m : Memory w) (a b : Nat) (v : BitVec w) :
    Memory.peek (Memory.poke m a v) b = if b = a then some v else Memory.peek m b := by
  induction m with
  | nil => rfl
  | cons kv rest ih =>
    obtain ⟨k, u⟩ := kv
    simp only [Memory.poke]
    split
    · rfl
    · split
      · next h => subst h; simp only [Memory.peek]; split <;> rfl
      · next _ hk =>
        simp only [Memory.peek, ih]
        split
        · next hb => rw [if_neg (by omega)]
        · rfl

@[simp] theorem peek_poke_self (m : Memory w) (a : Nat) (v : BitVec w) : Memory.peek (Memory.poke m a v) a = some v := by
  simp [peek_poke]

theorem peek_poke_ne (m : Memory w) {a b : Nat} (v : BitVec w) (h : b ≠ a) :
    Memory.peek (Memory.poke m a v) b = Memory.peek m b := by
  simp [peek_poke, h]

/-- Reading after a run of writes, inside and outside the addresses written. -/
theorem peek_pokeList (m : Memory w) (a b : Nat) (vs : List (BitVec w)) :
    Memory.peek (Memory.pokeList m a vs) b =
      if a ≤ b ∧ b < a + vs.length then vs[b - a]? else Memory.peek m b := by
  induction vs generalizing m a with
  | nil => simp [Memory.pokeList]
  | cons v vs ih =>
    simp only [Memory.pokeList, ih, peek_poke, List.length_cons]
    by_cases hb : b = a
    · subst hb; simp
    · by_cases h : a + 1 ≤ b ∧ b < a + 1 + vs.length
      · rw [if_pos h, if_pos (by omega), show b - a = (b - (a + 1)) + 1 by omega, List.getElem?_cons_succ]
      · rw [if_neg h, if_neg hb, if_neg (by omega)]

theorem peek_pokeList_outside (m : Memory w) {a b : Nat} (vs : List (BitVec w)) (h : b < a ∨ a + vs.length ≤ b) :
    Memory.peek (Memory.pokeList m a vs) b = Memory.peek m b := by
  rw [peek_pokeList, if_neg (by omega)]

theorem peek_pokeList_inside (m : Memory w) {a i : Nat} (vs : List (BitVec w)) (h : i < vs.length) :
    Memory.peek (Memory.pokeList m a vs) (a + i) = some vs[i] := by
  rw [peek_pokeList, if_pos (by omega), Nat.add_sub_cancel_left, List.getElem?_eq_getElem h]

/-- The addresses a write leaves listed are those listed before and the one written. -/
theorem poke_all (m : Memory w) (a : Nat) (v : BitVec w) (p : Nat → Bool) :
    ((Memory.poke m a v).all fun kv => p kv.1) = (p a && m.all fun kv => p kv.1) := by
  induction m with
  | nil => simp [Memory.poke]
  | cons kv rest ih =>
    obtain ⟨k, u⟩ := kv
    simp only [Memory.poke]
    split
    · simp
    · split
      · next h => subst h; simp
      · simp only [List.all_cons, ih]; rw [Bool.and_left_comm]

/-- A write keeps the canonical form. -/
theorem wf_poke (m : Memory w) (a : Nat) (v : BitVec w) (h : Memory.wf m = true) : Memory.wf (Memory.poke m a v) = true := by
  induction m with
  | nil => rfl
  | cons kv rest ih =>
    obtain ⟨k, u⟩ := kv
    simp only [Memory.wf, Bool.and_eq_true] at h
    simp only [Memory.poke]
    split
    · next hak =>
      simp only [Memory.wf, Bool.and_eq_true, List.all_cons, decide_eq_true_eq]
      refine ⟨⟨hak, ?_⟩, h⟩
      simp only [List.all_eq_true, decide_eq_true_eq] at h ⊢
      exact fun kv hkv => lt_trans hak (h.1 kv hkv)
    · split
      · next hak => subst hak; simp only [Memory.wf, Bool.and_eq_true]; exact h
      · next hlt hne =>
        simp only [Memory.wf, Bool.and_eq_true]
        refine ⟨?_, ih h.2⟩
        rw [poke_all rest a v (fun x => decide (k < x)), h.1]
        simp; omega

/-- A run of writes keeps the canonical form. -/
theorem wf_pokeList (m : Memory w) (a : Nat) (vs : List (BitVec w)) (h : Memory.wf m = true) :
    Memory.wf (Memory.pokeList m a vs) = true := by
  induction vs generalizing m a with
  | nil => exact h
  | cons v vs ih => exact ih _ _ (wf_poke m a v h)

/-- A write at an address below the bound keeps the bound. -/
theorem below_poke (m : Memory w) {a n : Nat} (v : BitVec w) (h : Memory.below m n = true) (ha : a < n) :
    Memory.below (Memory.poke m a v) n = true := by
  unfold Memory.below at *
  rw [poke_all m a v (fun x => decide (x < n)), h]
  simpa using ha

/-- A run of writes that ends at or below the bound keeps it. -/
theorem below_pokeList (m : Memory w) {a n : Nat} (vs : List (BitVec w)) (h : Memory.below m n = true)
    (ha : a + vs.length ≤ n) : Memory.below (Memory.pokeList m a vs) n = true := by
  induction vs generalizing m a with
  | nil => exact h
  | cons v vs ih =>
    simp only [List.length_cons] at ha
    exact ih _ (below_poke m v h (by omega)) (by omega)

/-- In canonical form an address below the first listed one holds nothing. -/
theorem peek_none_of_all (m : Memory w) {a : Nat} (h : (m.all fun kv => decide (a < kv.1)) = true) :
    Memory.peek m a = none := by
  induction m with
  | nil => rfl
  | cons kv rest ih =>
    simp only [List.all_cons, Bool.and_eq_true, decide_eq_true_eq] at h
    simp only [Memory.peek]
    rw [if_neg (by omega)]
    exact ih h.2

/-- Memories in canonical form that read the same everywhere are the same data. -/
theorem eq_of_peek_eq (m n : Memory w) (hm : Memory.wf m = true) (hn : Memory.wf n = true)
    (h : ∀ a, Memory.peek m a = Memory.peek n a) : m = n := by
  induction m generalizing n with
  | nil =>
    cases n with
    | nil => rfl
    | cons kv rest => have := h kv.1; simp [Memory.peek] at this
  | cons kv rest ih =>
    obtain ⟨k, u⟩ := kv
    cases n with
    | nil => have := h k; simp [Memory.peek] at this
    | cons kv' rest' =>
      obtain ⟨k', u'⟩ := kv'
      simp only [Memory.wf, Bool.and_eq_true] at hm hn
      have low : ∀ {x y : Nat} {l : Memory w}, x < y → (l.all fun kv => decide (y < kv.1)) = true →
          Memory.peek l x = none := fun hxy hl => peek_none_of_all _ (by
        simp only [List.all_eq_true, decide_eq_true_eq] at hl ⊢
        exact fun kv hkv => lt_trans hxy (hl kv hkv))
      have hk : k = k' := by
        rcases Nat.lt_trichotomy k k' with hlt | heq | hlt
        · have := h k
          simp only [Memory.peek, if_true] at this
          rw [if_neg (by omega), low hlt hn.1] at this
          cases this
        · exact heq
        · have := h k'
          simp only [Memory.peek, if_true] at this
          rw [if_neg (by omega), low hlt hm.1] at this
          cases this
      subst hk
      have hu : u = u' := by have := h k; simpa [Memory.peek] using this
      subst hu
      congr 1
      refine ih rest' hm.2 hn.2 fun a => ?_
      by_cases ha : a = k
      · subst ha
        rw [peek_none_of_all _ hm.1, peek_none_of_all _ hn.1]
      · have := h a
        simpa [Memory.peek, ha] using this

/-- The memories of the state after reset are in canonical form. -/
theorem wf_reset : Memory.wf State.reset.fb = true ∧ Memory.wf State.reset.pt.si = true ∧
    Memory.wf State.reset.pt.cmd = true ∧ Memory.wf State.reset.pt.plen = true ∧
    Memory.wf State.reset.pt.payload = true := by decide

end Sys2Proof.Machine
end

