-- ==== Sys2Proof/Laws/Ops.lean ====
section
/-! SUPPORT. One lemma for each shared operation that says what it can do, for proofs to cite instead of unfolding it. -/

namespace Sys2Proof.Machine

/-! ## The parameters of the machine -/

@[simp] theorem spec_maxPayload : Config.spec.maxPayload = 236 := rfl
@[simp] theorem spec_hdrBytes : Config.spec.hdrBytes = 12 := rfl
@[simp] theorem spec_recHdrBytes : Config.spec.recHdrBytes = 4 := rfl
@[simp] theorem spec_maxFrameData : Config.spec.maxFrameData = 240 := rfl
@[simp] theorem spec_fbSize : Config.spec.fbSize = 252 := rfl
@[simp] theorem spec_ptEntries : Config.spec.ptEntries = 60 := rfl
@[simp] theorem spec_align : Config.spec.align = 4 := rfl
@[simp] theorem spec_crcPoly : Config.spec.crcPoly = 0x1021#16 := rfl
@[simp] theorem spec_crcInit : Config.spec.crcInit = 0xFFFF#16 := rfl
@[simp] theorem spec_eventFlag : Config.spec.eventFlag = 0x8000#16 := rfl
@[simp] theorem spec_setMask : Config.spec.setMask = 0xC000#16 := rfl
@[simp] theorem spec_setMatch : Config.spec.setMatch = 0x4000#16 := rfl
@[simp] theorem spec_getMask : Config.spec.getMask = 0xF000#16 := rfl
@[simp] theorem spec_getMatch : Config.spec.getMatch = 0x1000#16 := rfl
@[simp] theorem spec_pipeCounterBits : Config.spec.pipeCounterBits = 5 := rfl
@[simp] theorem spec_pipePortBits : Config.spec.pipePortBits = 9 := rfl

/-! ## Arithmetic and byte order -/

/-- Rounding up to 4 gives the next multiple of 4. -/
theorem alignUp_four (n : Nat) : n ≤ alignUp 4 n ∧ alignUp 4 n < n + 4 ∧ 4 ∣ alignUp 4 n := by
  unfold alignUp; omega

@[simp] theorem leBytes_length (n v : Nat) : (leBytes n v).length = n := by simp [leBytes]

/-- Byte `i` of the little-endian form. -/
theorem leBytes_getElem (n v i : Nat) (h : i < (leBytes n v).length) :
    (leBytes n v)[i] = BitVec.ofNat 8 (v >>> (8 * i)) := by
  simp [leBytes]

/-- Byte `i` of the little-endian form of a bit vector. -/
theorem leBytes_getElem_bitVec {w : Nat} (n : Nat) (v : BitVec w) (i : Nat) (h : i < (leBytes n v.toNat).length) :
    (leBytes n v.toNat)[i] = v.extractLsb' (8 * i) 8 := by
  rw [leBytes_getElem]
  apply BitVec.eq_of_toNat_eq
  simp [BitVec.extractLsb'_toNat]

/-- The value of two bytes. -/
theorem leValue_two (lo hi : Byte) : BitVec.ofNat 16 (leValue [lo, hi]) = hi ++ lo := by
  apply BitVec.eq_of_toNat_eq
  have h1 := lo.isLt
  have h2 := hi.isLt
  rw [BitVec.toNat_append, ← Nat.shiftLeft_add_eq_or_of_lt h1]
  simp only [leValue, BitVec.toNat_ofNat, Nat.shiftLeft_eq]
  omega

/-! ## Reading `FB` and `PT` -/

@[simp] theorem fbRange_length (s : State) (a n : Nat) : (s.fbRange a n).length = n := by simp [State.fbRange]

@[simp] theorem fbRange_getElem (s : State) (a n i : Nat) (h : i < (s.fbRange a n).length) :
    (s.fbRange a n)[i] = s.fbByte (a + i) := by simp [State.fbRange]

@[simp] theorem ptPayload_length (c : Config) (s : State) (k n : Nat) : (s.ptPayload c k n).length = n := by
  simp [State.ptPayload]

@[simp] theorem ptPayload_getElem (c : Config) (s : State) (k n j : Nat) (h : j < (s.ptPayload c k n).length) :
    (s.ptPayload c k n)[j] = s.ptByte c k j := by simp [State.ptPayload]

/-- Two payload bytes with indices inside a payload share a place only if they are the same byte. -/
theorem payloadKey_inj (c : Config) {k k' j j' : Nat} (hj : j < c.maxPayload) (hj' : j' < c.maxPayload) :
    payloadKey c k j = payloadKey c k' j' ↔ k = k' ∧ j = j' := by
  unfold payloadKey
  constructor
  · intro h
    have hk : k = k' := by
      have h1 : (k * c.maxPayload + j) / c.maxPayload = k := by
        rw [Nat.mul_comm, Nat.mul_add_div (by omega), Nat.div_eq_of_lt hj, Nat.add_zero]
      have h2 : (k' * c.maxPayload + j') / c.maxPayload = k' := by
        rw [Nat.mul_comm, Nat.mul_add_div (by omega), Nat.div_eq_of_lt hj', Nat.add_zero]
      rw [← h1, ← h2, h]
    subst hk
    exact ⟨rfl, by omega⟩
  · rintro ⟨rfl, rfl⟩; rfl

/-! ## Operands -/

/-- What a checked operand gives. -/
theorem checked_eq_some {n : Nat} {v : Word} {x : BitVec n} :
    checked n v = some x ↔ v.toNat < 2 ^ n ∧ x = v.setWidth n := by
  unfold checked
  split
  · simp; omega
  · simp only [Option.some.injEq]; constructor
    · rintro rfl; exact ⟨by omega, rfl⟩
    · rintro ⟨_, rfl⟩; rfl

/-- When a checked operand is refused. -/
theorem checked_eq_none {n : Nat} {v : Word} : checked n v = none ↔ 2 ^ n ≤ v.toNat := by
  unfold checked; split <;> simp_all

/-- A checked operand keeps its value. -/
theorem checked_toNat {n : Nat} {v : Word} {x : BitVec n} (h : checked n v = some x) : x.toNat = v.toNat := by
  obtain ⟨hv, rfl⟩ := checked_eq_some.1 h
  rw [BitVec.toNat_setWidth, Nat.mod_eq_of_lt hv]

/-- What an entry operand gives. -/
theorem entryOperand_eq_some {c : Config} {v : Word} {k : Nat} :
    entryOperand c v = some k ↔ k = v.toNat ∧ v.toNat < c.ptEntries := by
  unfold entryOperand
  split
  · simp; omega
  · simp only [Option.some.injEq]; omega

/-- When an entry operand is refused. -/
theorem entryOperand_eq_none {c : Config} {v : Word} : entryOperand c v = none ↔ c.ptEntries ≤ v.toNat := by
  unfold entryOperand; split <;> simp_all

/-- What a range operand gives. -/
theorem rangeOperand_eq_some {c : Config} {a n : Word} {r : Nat × Nat} :
    rangeOperand c a n = some r ↔ r = (a.toNat, n.toNat) ∧ a.toNat ≤ c.fbSize ∧ n.toNat ≤ c.fbSize - a.toNat := by
  unfold rangeOperand
  split
  · simp; omega
  · simp only [Option.some.injEq]
    constructor
    · rintro rfl; exact ⟨rfl, by omega, by omega⟩
    · rintro ⟨rfl, _⟩; rfl

/-! ## ENCODE -/

/-- The checks of ENCODE with the machine's parameters put in. -/
theorem encodeCheck_spec (s : State) : encodeCheck Config.spec s =
    if 60 < s.pcount.toNat then some .badOperand
    else if s.pcount.toNat = 0 then some .emptyFrame
    else if (List.range s.pcount.toNat).any fun k => decide (236 < (s.ptPLEN k).toNat) then some .payloadTooLarge
    else if 240 < recordsSize Config.spec s s.pcount.toNat then some .frameTooLarge
    else none := rfl

/-- Every check of ENCODE passes exactly under these conditions (40_frame_codec.md R106 to R108). -/
theorem encodeCheck_eq_none {c : Config} {s : State} :
    encodeCheck c s = none ↔ s.pcount.toNat ≤ c.ptEntries ∧ s.pcount.toNat ≠ 0 ∧
      (∀ k < s.pcount.toNat, (s.ptPLEN k).toNat ≤ c.maxPayload) ∧ recordsSize c s s.pcount.toNat ≤ c.maxFrameData := by
  unfold encodeCheck
  simp only [List.any_eq_true, List.mem_range, decide_eq_true_eq]
  split
  · simp; omega
  · split
    · simp; omega
    · split
      · next h =>
        obtain ⟨k, hk, hl⟩ := h
        simp only [reduceCtorEq, false_iff]
        rintro ⟨_, _, h3, _⟩
        exact absurd (h3 k hk) (by omega)
      · next h =>
        push Not at h
        split
        · simp; omega
        · simp only [true_iff]
          exact ⟨by omega, by omega, h, by omega⟩

/-- The two ways ENCODE can end (40_frame_codec.md R112, R113). -/
theorem encodeOp_cases (c : Config) (s : State) :
    (∃ e, encodeCheck c s = some e ∧ encodeOp c s = (s.setFlen 0).raiseError 0x1 e) ∨
    (encodeCheck c s = none ∧ ∃ m x, m = encodeBody c s s.pcount.toNat ∧
      x = crc16 c ((s.setFb m).fbRange 2 (recordsEnd c s s.pcount.toNat - 2)) ∧
      encodeOp c s = ((((s.setFb (Memory.pokeList m 0 (leBytes 2 x.toNat))).setCrc x).setFlen
        (BitVec.ofNat 8 (recordsEnd c s s.pcount.toNat))).finish 0x1 false false)) := by
  unfold encodeOp
  cases h : encodeCheck c s with
  | some e => exact .inl ⟨e, rfl, rfl⟩
  | none => exact .inr ⟨rfl, _, _, rfl, rfl, rfl⟩

/-- Records start one after the other: each next offset is past the record before it. -/
theorem recordOff_succ_ge (s : State) (k : Nat) :
    recordOff Config.spec s k + 4 + (s.ptPLEN k).toNat ≤ recordOff Config.spec s (k + 1) := by
  have := (alignUp_four (4 + (s.ptPLEN k).toNat)).1
  simp only [recordOff, spec_align, spec_recHdrBytes]
  omega

/-- Later records start later. -/
theorem recordOff_mono (s : State) {i j : Nat} (h : i ≤ j) : recordOff Config.spec s i ≤ recordOff Config.spec s j := by
  induction j with
  | zero => rw [Nat.le_zero.1 h]
  | succ j ih =>
    rcases Nat.of_le_succ h with h | rfl
    · have := recordOff_succ_ge s j
      exact le_trans (ih h) (by omega)
    · exact le_rfl

/-- The length of a record with its padding: up to the next record, or without padding for the last one. -/
theorem recordBytes_length (s : State) (n k : Nat) :
    (recordBytes Config.spec s n k).length =
      if k + 1 < n then recordOff Config.spec s (k + 1) - recordOff Config.spec s k else 4 + (s.ptPLEN k).toNat := by
  have := recordOff_succ_ge s k
  unfold recordBytes
  split <;> simp <;> omega

/-! ## DECODE -/

/-- The length checks of DECODE with the machine's parameters put in. -/
theorem decodeCheck_spec (s : State) : decodeCheck Config.spec s =
    if 252 < s.flen.toNat then some .badOperand
    else if s.flen.toNat < 12 then some .shortFrame
    else if 240 < (s.fbByte 2).toNat then some .frameTooLarge
    else if s.flen.toNat < 12 + (s.fbByte 2).toNat then some .shortFrame
    else if (s.fbByte 2).toNat < 4 then some .emptyFrame
    else none := rfl

/-- One round of the record walk with the machine's parameters put in. -/
theorem walkRecords_spec (s : State) (stop fuel p : Nat) (acc : List Rec) :
    walkRecords Config.spec s stop (fuel + 1) p acc =
      if p < stop then
        if stop < p + 4 + (s.fbByte p).toNat then .error .recordOverrun
        else if acc.length = 60 then .error .tooManyPackets
        else walkRecords Config.spec s stop fuel (p + alignUp 4 (4 + (s.fbByte p).toNat)) (acc ++ [recordAt Config.spec s p])
      else .ok acc := rfl

/-- Both length checks of DECODE pass exactly under these conditions (40_frame_codec.md R115, R116). -/
theorem decodeCheck_eq_none {c : Config} {s : State} :
    decodeCheck c s = none ↔ s.flen.toNat ≤ c.fbSize ∧ c.hdrBytes ≤ s.flen.toNat ∧
      (s.fbByte 2).toNat ≤ c.maxFrameData ∧ c.hdrBytes + (s.fbByte 2).toNat ≤ s.flen.toNat ∧
      c.recHdrBytes ≤ (s.fbByte 2).toNat := by
  unfold decodeCheck
  simp only
  repeat' split
  all_goals simp
  all_goals omega

/-- The walk only adds to the records it starts with, and it can end in two errors only (40_frame_codec.md R118). -/
theorem walkRecords_cases (c : Config) (s : State) (stop fuel p : Nat) (acc : List Rec) :
    (∃ rs, walkRecords c s stop fuel p acc = .ok (acc ++ rs)) ∨
      walkRecords c s stop fuel p acc = .error .recordOverrun ∨
      walkRecords c s stop fuel p acc = .error .tooManyPackets := by
  induction fuel generalizing p acc with
  | zero => exact .inl ⟨[], by simp [walkRecords]⟩
  | succ fuel ih =>
    unfold walkRecords
    simp only
    split
    · split
      · exact .inr (.inl rfl)
      · split
        · exact .inr (.inr rfl)
        · rcases ih _ (acc ++ [recordAt c s p]) with ⟨rs, h⟩ | h
          · exact .inl ⟨recordAt c s p :: rs, by rw [h]; simp⟩
          · exact .inr h
    · exact .inl ⟨[], by simp⟩

/-- The ways DECODE can end (40_frame_codec.md R119, R120): a length error; a CRC mismatch; a record error; the commit. -/
theorem decodeFrame_cases (c : Config) (s : State) (stop : Nat) (x : Half)
    (hstop : stop = c.hdrBytes + (s.fbByte 2).toNat) (hx : x = crc16 c (s.fbRange 2 (stop - 2))) :
    (∃ e, decodeCheck c s = some e ∧ decodeFrame c s = decodeFail s e) ∨
    (decodeCheck c s = none ∧
      ((x ≠ BitVec.ofNat 16 (leValue (s.fbRange 0 2)) ∧ decodeFrame c s = decodeFail (s.setCrc x) .crcMismatch) ∨
      (x = BitVec.ofNat 16 (leValue (s.fbRange 0 2)) ∧
        ((∃ e, walkRecords c s stop (stop - c.hdrBytes) c.hdrBytes [] = .error e ∧
            decodeFrame c s = decodeFail (s.setCrc x) e) ∨
        (∃ rs, walkRecords c s stop (stop - c.hdrBytes) c.hdrBytes [] = .ok rs ∧
            decodeFrame c s = (((((s.setCrc x).setDevid (BitVec.ofNat 64 (leValue (s.fbRange 4 8)))).setFflags
              (s.fbByte 3)).setPt (commitRecords c 0 rs s.pt)).setPcount (BitVec.ofNat 8 rs.length)).finish 0x2
                (trailFlag s.flen.toNat stop) false))))) := by
  subst hx hstop
  unfold decodeFrame
  cases h : decodeCheck c s with
  | some e => exact .inl ⟨e, rfl, rfl⟩
  | none =>
    refine .inr ⟨rfl, ?_⟩
    simp only
    split
    · next hc => exact .inl ⟨hc, rfl⟩
    · next hc =>
      refine .inr ⟨by simpa using hc, ?_⟩
      split
      · next e he => exact .inl ⟨e, he, rfl⟩
      · next rs hrs => exact .inr ⟨rs, hrs, rfl⟩

/-- The last of the two failure effects of DECODE: `PCOUNT` and `STATUS`, nothing else. -/
theorem decodeFail_eq (s : State) (e : ErrCode) :
    decodeFail s e = { s with pcount := 0, status := statusWord e false false 0x2 } := rfl

/-! ## The other operations -/

/-- The two ways CRC can end (40_frame_codec.md R103). -/
theorem crcOp_cases (c : Config) (s : State) :
    (rangeOperand c s.arg0 s.arg1 = none ∧ crcOp c s = s.raiseError 0x3 .badOperand) ∨
    (∃ x, rangeOperand c s.arg0 s.arg1 = some (s.arg0.toNat, s.arg1.toNat) ∧
      x = crc16 c (s.fbRange s.arg0.toNat s.arg1.toNat) ∧
      crcOp c s = ((s.setCrc x).setRes0 (x.setWidth 64)).finish 0x3 false false) := by
  unfold crcOp
  cases h : rangeOperand c s.arg0 s.arg1 with
  | none => exact .inl ⟨rfl, rfl⟩
  | some r =>
    obtain ⟨rfl, _, _⟩ := rangeOperand_eq_some.1 h
    exact .inr ⟨_, rfl, rfl, rfl⟩

/-- The two ways CMD_CLASSIFY can end (41_command_codes.md R132). -/
theorem classifyOp_cases (c : Config) (s : State) :
    (checked 16 s.arg0 = none ∧ classifyOp c s = s.raiseError 0x4 .badOperand) ∨
    (∃ code t, checked 16 s.arg0 = some code ∧ t = (classify c code).triple ∧
      classifyOp c s = (((s.setRes0 t.1).setRes1 t.2.1).setRes2 t.2.2).finish 0x4 false false) := by
  unfold classifyOp
  cases checked 16 s.arg0 with
  | none => exact .inl ⟨rfl, rfl⟩
  | some code => exact .inr ⟨code, _, rfl, rfl, rfl⟩

/-- The two ways CMD_MAKE_GET and CMD_MAKE_SET can end (41_command_codes.md R133, R134). -/
theorem makeRegOp_cases (op : BitVec 4) (classBits : Half) (s : State) :
    (checked 12 s.arg0 = none ∧ makeRegOp op classBits s = s.raiseError op .badOperand) ∨
    (∃ r, checked 12 s.arg0 = some r ∧
      makeRegOp op classBits s = (s.setRes0 ((classBits ||| r.setWidth 16).setWidth 64)).finish op false false) := by
  unfold makeRegOp
  cases checked 12 s.arg0 with
  | none => exact .inl ⟨rfl, rfl⟩
  | some r => exact .inr ⟨r, rfl, rfl⟩

/-- The two ways CMD_MAKE_EVENT can end (41_command_codes.md R135). -/
theorem makeEventOp_cases (c : Config) (s : State) :
    (checked 8 s.arg0 = none ∧ makeEventOp c s = s.raiseError 0x7 .badOperand) ∨
    (∃ e, checked 8 s.arg0 = some e ∧ makeEventOp c s =
      (s.setRes0 ((c.eventFlag ||| ((wrapped 7 s.arg1).setWidth 16 <<< 8) ||| e.setWidth 16).setWidth 64)).finish 0x7
        false false) := by
  unfold makeEventOp
  cases checked 8 s.arg0 with
  | none => exact .inl ⟨rfl, rfl⟩
  | some e => exact .inr ⟨e, rfl, rfl⟩

/-- The two ways PIPE_CMD_PACK can end (42_pipe_marshalling.md R152). -/
theorem pipePackOp_cases (c : Config) (s : State) :
    ((checked c.pipePortBits s.arg1 = none ∨ checked 2 s.arg2 = none) ∧
      pipePackOp c s = s.raiseError 0x8 .badOperand) ∨
    (∃ port flags, checked c.pipePortBits s.arg1 = some port ∧ checked 2 s.arg2 = some flags ∧ pipePackOp c s =
      (s.setRes0 ((pipeWord c (wrapped c.pipeCounterBits s.arg0) (flags.extractLsb' 0 1) (flags.extractLsb' 1 1)
        port).setWidth 64)).finish 0x8 false false) := by
  unfold pipePackOp
  cases checked c.pipePortBits s.arg1 with
  | none => exact .inl ⟨.inl rfl, rfl⟩
  | some port =>
    cases checked 2 s.arg2 with
    | none => exact .inl ⟨.inr rfl, rfl⟩
    | some flags => exact .inr ⟨port, flags, rfl, rfl, rfl⟩

/-- The two ways PIPE_OPEN_PACK can end (42_pipe_marshalling.md R156). -/
theorem openPackOp_cases (c : Config) (s : State) :
    ((checked c.pipePortBits s.arg1 = none ∨ entryOperand c s.arg2 = none) ∧
      openPackOp c s = s.raiseError 0xA .badOperand) ∨
    (∃ port k, checked c.pipePortBits s.arg1 = some port ∧ entryOperand c s.arg2 = some k ∧ openPackOp c s =
      (s.setPt ((s.pt.writePayload c k 0 (openPayload s.arg0 (port.setWidth 16))).writePLEN k 12)).finish 0xA
        false false) := by
  unfold openPackOp
  cases checked c.pipePortBits s.arg1 with
  | none => exact .inl ⟨.inl rfl, rfl⟩
  | some port =>
    cases entryOperand c s.arg2 with
    | none => exact .inl ⟨.inr rfl, rfl⟩
    | some k => exact .inr ⟨port, k, rfl, rfl, rfl⟩

/-- `pipeword` at this spec's widths (42_pipe_marshalling.md R150). -/
theorem pipeWord_spec (cnt : BitVec 5) (close metadata : BitVec 1) (port : BitVec 9) :
    pipeWord Config.spec cnt close metadata port =
      cnt.setWidth 16 ||| (close.setWidth 16 <<< 5) ||| (metadata.setWidth 16 <<< 6) ||| (port.setWidth 16 <<< 7) := rfl

/-- PIPE_CMD_PACK at this spec's widths (42_pipe_marshalling.md R152). -/
theorem pipePackOp_spec (s : State) : pipePackOp Config.spec s =
    match checked 9 s.arg1, checked 2 s.arg2 with
    | some port, some flags =>
      (s.setRes0 ((pipeWord Config.spec (wrapped 5 s.arg0) (flags.extractLsb' 0 1) (flags.extractLsb' 1 1)
        port).setWidth 64)).finish 0x8 false false
    | _, _ => s.raiseError 0x8 .badOperand := by
  unfold pipePackOp
  simp only [spec_pipePortBits, spec_pipeCounterBits]
  cases checked 9 s.arg1 with
  | none => rfl
  | some port => cases checked 2 s.arg2 <;> rfl

/-- PIPE_CMD_UNPACK at this spec's widths (42_pipe_marshalling.md R151, R153). -/
theorem pipeUnpackOp_spec (s : State) : pipeUnpackOp Config.spec s =
    match checked 16 s.arg0 with
    | none => s.raiseError 0x9 .badOperand
    | some w =>
      (((s.setRes0 ((w.extractLsb' 0 5).setWidth 64)).setRes1 ((w.extractLsb' 7 9).setWidth 64)).setRes2
        ((w.extractLsb' 6 1 ++ w.extractLsb' 5 1).setWidth 64)).finish 0x9 false false := rfl

/-- The class tests at this spec's parameters (41_command_codes.md R130), the first on bit 15. -/
theorem classify_spec (code : Half) : classify Config.spec code =
    if code.getLsbD 15 then .event (code.extractLsb' 0 8) (code.extractLsb' 8 7)
    else if code &&& 0xC000#16 = 0x4000#16 then .setReg (code.extractLsb' 0 12)
    else if code &&& 0xF000#16 = 0x1000#16 then .getReg (code.extractLsb' 0 12)
    else .other := by
  have h : (code &&& 0x8000#16 ≠ 0) ↔ code.getLsbD 15 = true := by
    have hmask : (0x8000#16) = BitVec.twoPow 16 15 := by decide
    rw [hmask, BitVec.and_twoPow]
    cases code.getLsbD 15 <;> simp
  unfold classify
  by_cases hb : code.getLsbD 15 = true
  · exact (if_pos (h.2 hb)).trans (if_pos hb).symm
  · exact (if_neg (mt h.1 hb)).trans (if_neg hb).symm

@[simp] theorem openPayload_length (d : Word) (port : Half) : (openPayload d port).length = 12 := by
  simp [openPayload]

/-- The two ways PIPE_CMD_UNPACK can end (42_pipe_marshalling.md R153). -/
theorem pipeUnpackOp_cases (c : Config) (s : State) :
    (checked 16 s.arg0 = none ∧ pipeUnpackOp c s = s.raiseError 0x9 .badOperand) ∨
    (∃ w, checked 16 s.arg0 = some w ∧ pipeUnpackOp c s =
      (((s.setRes0 ((w.extractLsb' 0 c.pipeCounterBits).setWidth 64)).setRes1
        ((w.extractLsb' (c.pipeCounterBits + 2) c.pipePortBits).setWidth 64)).setRes2
        ((w.extractLsb' (c.pipeCounterBits + 1) 1 ++ w.extractLsb' c.pipeCounterBits 1).setWidth 64)).finish 0x9
          false false) := by
  unfold pipeUnpackOp
  cases checked 16 s.arg0 with
  | none => exact .inl ⟨rfl, rfl⟩
  | some w => exact .inr ⟨w, rfl, rfl⟩

/-- The three ways PIPE_OPEN_UNPACK can end (42_pipe_marshalling.md R157). -/
theorem openUnpackOp_cases (c : Config) (s : State) :
    (entryOperand c s.arg2 = none ∧ openUnpackOp c s = s.raiseError 0xB .badOperand) ∨
    (∃ k, entryOperand c s.arg2 = some k ∧ (s.ptPLEN k).toNat < 12 ∧
      openUnpackOp c s = s.raiseError 0xB .malformedPayload) ∨
    (∃ k d port r, entryOperand c s.arg2 = some k ∧ 12 ≤ (s.ptPLEN k).toNat ∧
      d = BitVec.ofNat 64 (leValue ((List.range 8).map fun i => s.ptByte c k (0 + i))) ∧
      port = BitVec.ofNat 16 (leValue ((List.range 2).map fun i => s.ptByte c k (8 + i))) ∧
      r = BitVec.ofNat 64 (leValue ((List.range 2).map fun i => s.ptByte c k (10 + i))) ∧
      openUnpackOp c s =
        (((s.setRes0 d).setRes1 (port.setWidth 64)).setRes2 r).finish 0xB false (porthiFlag c port)) := by
  unfold openUnpackOp
  cases entryOperand c s.arg2 with
  | none => exact .inl ⟨rfl, rfl⟩
  | some k =>
    by_cases h : (s.ptPLEN k).toNat < 12
    · exact .inr (.inl ⟨k, rfl, h, if_pos h⟩)
    · exact .inr (.inr ⟨k, _, _, _, rfl, by omega, rfl, rfl, rfl, if_neg h⟩)

end Sys2Proof.Machine
end

