-- ==== Sys2Proof/Laws/Frame.lean ====
section
/-! SUPPORT. What ENCODE leaves in `FB`, what the record walk of DECODE finds, and what its commit leaves in `PT`, once
each. -/

namespace Sys2Proof.Machine

/-! ## The packets a state stands for -/

/-- For a legal `PLEN` (10_state.md R33) the payload has exactly `PLEN` bytes. -/
@[simp] theorem payloadLength_of_legal (s : State) (k : Nat) (h : (s.ptPLEN k).toNat ≤ 236) :
    payloadLength Config.spec s k = (s.ptPLEN k).toNat := Nat.min_eq_left h

/-- The payload lies inside the entry. -/
theorem payloadLength_le (s : State) (k : Nat) : payloadLength Config.spec s k ≤ 236 := Nat.min_le_right _ _

/-- For a legal `PCOUNT` (10_state.md R28) the packets are exactly the entries below it. -/
@[simp] theorem packetCount_of_legal (s : State) (h : s.pcount.toNat ≤ 60) :
    packetCount Config.spec s = s.pcount.toNat := Nat.min_eq_left h

/-! ## ENCODE's buffer -/

/-- The buffer after the header and the first `j` of `n` records. -/
def encodePrefix (s : State) (n j : Nat) : Memory 8 :=
  (List.range j).foldl (fun m k => Memory.pokeList m (recordOff Config.spec s k) (recordBytes Config.spec s n k))
    (Memory.pokeList (Memory.poke (Memory.poke s.fb 2 (BitVec.ofNat 8 (recordsSize Config.spec s n))) 3 s.fflags) 4
      (leBytes 8 s.devid.toNat))

theorem encodeBody_eq_prefix (s : State) (n : Nat) : encodeBody Config.spec s n = encodePrefix s n n := rfl

theorem encodePrefix_succ (s : State) (n j : Nat) : encodePrefix s n (j + 1) =
    Memory.pokeList (encodePrefix s n j) (recordOff Config.spec s j) (recordBytes Config.spec s n j) := by
  simp [encodePrefix, List.range_succ]

/-- Every record lies from offset 12 on. -/
theorem recordOff_ge (s : State) (k : Nat) : 12 ≤ recordOff Config.spec s k := recordOff_mono s (Nat.zero_le k)

/-- A record ends where the next one starts, or, if it is the last, at `end`. -/
theorem recordBytes_end (s : State) {n k : Nat} (hk : k < n) :
    recordOff Config.spec s k + (recordBytes Config.spec s n k).length =
      if k + 1 < n then recordOff Config.spec s (k + 1) else recordsEnd Config.spec s n := by
  have h := recordOff_succ_ge s k
  rw [recordBytes_length]
  split
  · omega
  · have hn : n - 1 = k := by omega
    simp only [recordsEnd, hn, spec_recHdrBytes]; omega

/-- Every record ends at or before `end`. -/
theorem recordBytes_end_le (s : State) {n k : Nat} (hk : k < n) :
    recordOff Config.spec s k + (recordBytes Config.spec s n k).length ≤ recordsEnd Config.spec s n := by
  rw [recordBytes_end s hk]
  split
  · next h =>
    have h1 := recordOff_mono s (show k + 1 ≤ n - 1 by omega)
    simp only [recordsEnd, spec_recHdrBytes]; omega
  · exact le_rfl

/-- The first `j` records do not reach below offset 12 nor to the start of record `j`. -/
theorem peek_encodePrefix_header (s : State) (n j a : Nat) (ha : a < 12) :
    Memory.peek (encodePrefix s n j) a = Memory.peek (encodePrefix s n 0) a := by
  induction j with
  | zero => rfl
  | succ j ih =>
    rw [encodePrefix_succ, peek_pokeList_outside, ih]
    have := recordOff_ge s j
    omega

/-- Record `k` stays as it was written, and the bytes past the records written stay as they were before. -/
theorem peek_encodePrefix_record (s : State) (n : Nat) {j k i : Nat} (hk : k < j) (hj : j ≤ n)
    (hi : i < (recordBytes Config.spec s n k).length) :
    Memory.peek (encodePrefix s n j) (recordOff Config.spec s k + i) = some (recordBytes Config.spec s n k)[i] := by
  induction j with
  | zero => omega
  | succ j ih =>
    rw [encodePrefix_succ]
    rcases Nat.lt_succ_iff_lt_or_eq.1 hk with h | h
    · rw [peek_pokeList_outside, ih h (by omega)]
      have h1 := recordBytes_end s (show k < n by omega)
      rw [if_pos (by omega)] at h1
      have h2 := recordOff_mono s (show k + 1 ≤ j by omega)
      omega
    · subst h; exact peek_pokeList_inside _ _ hi

/-- Past `end` the buffer is untouched. -/
theorem peek_encodePrefix_beyond (s : State) (n : Nat) {j a : Nat} (hj : j ≤ n)
    (ha : recordsEnd Config.spec s n ≤ a) : Memory.peek (encodePrefix s n j) a = Memory.peek s.fb a := by
  have h12 := recordOff_ge s (n - 1)
  have hend : 12 < a := by simp only [recordsEnd, spec_recHdrBytes] at ha; omega
  induction j with
  | zero =>
    simp only [encodePrefix, List.range_zero, List.foldl_nil]
    rw [peek_pokeList_outside _ _ (by simp; omega), peek_poke_ne _ _ (by omega), peek_poke_ne _ _ (by omega)]
  | succ j ih =>
    rw [encodePrefix_succ, peek_pokeList_outside, ih (by omega)]
    have := recordBytes_end_le s (show j < n by omega)
    omega

/-- The header but for the CRC (40_frame_codec.md R109). -/
theorem peek_encodeBody_header (s : State) (n : Nat) :
    Memory.peek (encodeBody Config.spec s n) 2 = some (BitVec.ofNat 8 (recordsSize Config.spec s n)) ∧
    Memory.peek (encodeBody Config.spec s n) 3 = some s.fflags ∧
    ∀ i < 8, Memory.peek (encodeBody Config.spec s n) (4 + i) = some (s.devid.extractLsb' (8 * i) 8) := by
  have h0 : encodePrefix s n 0 = Memory.pokeList (Memory.poke (Memory.poke s.fb 2
      (BitVec.ofNat 8 (recordsSize Config.spec s n))) 3 s.fflags) 4 (leBytes 8 s.devid.toNat) := rfl
  refine ⟨?_, ?_, fun i hi => ?_⟩
  · rw [encodeBody_eq_prefix, peek_encodePrefix_header _ _ _ _ (by omega), h0,
      peek_pokeList_outside _ _ (by omega), peek_poke_ne _ _ (by omega), peek_poke_self]
  · rw [encodeBody_eq_prefix, peek_encodePrefix_header _ _ _ _ (by omega), h0,
      peek_pokeList_outside _ _ (by omega), peek_poke_self]
  · rw [encodeBody_eq_prefix, peek_encodePrefix_header _ _ _ _ (by omega), h0,
      peek_pokeList_inside _ _ (by simpa using hi), leBytes_getElem_bitVec]

/-- The records (40_frame_codec.md R110). -/
theorem peek_encodeBody_record (s : State) {n k i : Nat} (hk : k < n)
    (hi : i < (recordBytes Config.spec s n k).length) :
    Memory.peek (encodeBody Config.spec s n) (recordOff Config.spec s k + i) =
      some (recordBytes Config.spec s n k)[i] :=
  peek_encodePrefix_record s n hk le_rfl hi

/-- Every offset from the first record up to `end` lies in some record. -/
theorem exists_record (s : State) {n a : Nat} (h : 12 ≤ a) (ha : a < recordsEnd Config.spec s n) (hn : 0 < n) :
    ∃ k i, k < n ∧ i < (recordBytes Config.spec s n k).length ∧ a = recordOff Config.spec s k + i := by
  have key : ∀ j, j ≤ n - 1 → recordOff Config.spec s j ≤ a →
      ∃ k i, k < n ∧ i < (recordBytes Config.spec s n k).length ∧ a = recordOff Config.spec s k + i := by
    intro j hj
    induction hm : n - 1 - j generalizing j with
    | zero =>
      intro hle
      have hk : j < n := by omega
      have he := recordBytes_end s hk
      rw [if_neg (by omega)] at he
      exact ⟨j, a - recordOff Config.spec s j, hk, by omega, by omega⟩
    | succ m ih =>
      intro hle
      by_cases hnext : recordOff Config.spec s (j + 1) ≤ a
      · exact ih (j + 1) (by omega) (by omega) hnext
      · have hk : j < n := by omega
        have he := recordBytes_end s hk
        rw [if_pos (by omega)] at he
        exact ⟨j, a - recordOff Config.spec s j, hk, by omega, by omega⟩
  exact key 0 (by omega) h

/-- Every byte of the frame after the CRC field is written by ENCODE, so none of them is what `FB` held before. -/
theorem peek_encodeBody_isSome (s : State) {n a : Nat} (h : 2 ≤ a) (ha : a < recordsEnd Config.spec s n) (hn : 0 < n) :
    (Memory.peek (encodeBody Config.spec s n) a).isSome = true := by
  obtain ⟨h2, h3, h4⟩ := peek_encodeBody_header s n
  by_cases h12 : 12 ≤ a
  · obtain ⟨k, i, hk, hi, rfl⟩ := exists_record s h12 ha hn
    rw [peek_encodeBody_record s hk hi]; rfl
  · by_cases e2 : a = 2
    · rw [e2, h2]; rfl
    · by_cases e3 : a = 3
      · rw [e3, h3]; rfl
      · have := h4 (a - 4) (by omega)
        rw [show 4 + (a - 4) = a by omega] at this
        rw [this]; rfl

/-! ## DECODE's walk -/

/-- The fields of the record at an offset, each from its bytes of `FB` (40_frame_codec.md R118). -/
theorem recordAt_fields (s : State) (p : Nat) (r : Rec) : r = recordAt Config.spec s p ↔
    r.plen = s.fbByte p ∧ r.si = s.fbByte (p + 1) ∧ r.cmd = s.fbByte (p + 3) ++ s.fbByte (p + 2) ∧
      r.payload = (List.range r.plen.toNat).map (fun j => s.fbByte (p + 4 + j)) := by
  have hcmd : BitVec.ofNat 16 (leValue (s.fbRange (p + 2) 2)) = s.fbByte (p + 3) ++ s.fbByte (p + 2) := by
    rw [← leValue_two]; rfl
  constructor
  · rintro rfl
    exact ⟨rfl, rfl, hcmd, rfl⟩
  · rintro ⟨h1, h2, h3, h4⟩
    cases r
    simp only at h1 h2 h3 h4
    subst h1 h2
    rw [h4, h3, ← hcmd]
    rfl

/-- The walk ends well with `rs` added exactly when `rs` is the chain from where it stands. -/
theorem walkRecords_ok_iff (s : State) (stop fuel p : Nat) (acc rs : List Rec) (hfuel : stop - p ≤ fuel)
    (hlen : ∀ rs, recordChain s stop p rs → acc.length + rs.length ≤ 60) :
    walkRecords Config.spec s stop fuel p acc = .ok (acc ++ rs) ↔ recordChain s stop p rs := by
  induction fuel generalizing p acc rs with
  | zero =>
    have hp : stop ≤ p := by omega
    simp only [walkRecords, Except.ok.injEq]
    cases rs with
    | nil => simp [recordChain, hp]
    | cons r rs => simp [recordChain]; omega
  | succ fuel ih =>
    rw [walkRecords_spec]
    by_cases hp : p < stop
    · rw [if_pos hp]
      have hup := (alignUp_four (4 + (s.fbByte p).toNat)).1
      have halign : alignUp 4 (4 + (s.fbByte p).toNat) = (4 + (s.fbByte p).toNat + 3) / 4 * 4 := rfl
      by_cases hover : stop < p + 4 + (s.fbByte p).toNat
      · rw [if_pos hover]
        constructor
        · intro h; cases h
        · cases rs with
          | nil => simp [recordChain]; omega
          | cons r rs => rintro ⟨_, hle, hpl, _⟩; rw [hpl] at hle; omega
      · rw [if_neg hover]
        have hnext : ∀ rs', recordChain s stop (p + alignUp 4 (4 + (s.fbByte p).toNat)) rs' →
            recordChain s stop p (recordAt Config.spec s p :: rs') := by
          intro rs' h
          obtain ⟨h1, h2, h3, h4⟩ := (recordAt_fields s p _).1 rfl
          refine ⟨hp, ?_, h1, h2, h3, h4, ?_⟩
          · rw [h1]; omega
          · rw [h1, ← halign]; exact h
        by_cases hfull : acc.length = 60
        · rw [if_pos hfull]
          constructor
          · intro h; cases h
          · intro h
            have := hlen rs h
            cases rs with
            | nil => exact absurd h (by simp [recordChain]; omega)
            | cons r rs => simp at this; omega
        · rw [if_neg hfull]
          cases rs with
          | nil =>
            constructor
            · intro h
              rcases walkRecords_cases Config.spec s stop fuel (p + alignUp 4 (4 + (s.fbByte p).toNat))
                  (acc ++ [recordAt Config.spec s p]) with ⟨rs', h'⟩ | h' | h' <;> rw [h'] at h
              · simp at h
              · cases h
              · cases h
            · intro h; simp only [recordChain] at h; omega
          | cons r rs =>
            have ih' := ih (p + alignUp 4 (4 + (s.fbByte p).toNat)) (acc ++ [recordAt Config.spec s p]) rs
              (by omega) (by
                intro rs' h
                have := hlen _ (hnext rs' h)
                simp at this ⊢; omega)
            rw [List.append_assoc, List.singleton_append] at ih'
            constructor
            · intro h
              rcases walkRecords_cases Config.spec s stop fuel (p + alignUp 4 (4 + (s.fbByte p).toNat))
                  (acc ++ [recordAt Config.spec s p]) with ⟨rs', h'⟩ | h' | h'
              · have h2 := h
                rw [h'] at h2
                simp only [Except.ok.injEq, List.append_assoc, List.singleton_append,
                  List.append_cancel_left_eq, List.cons.injEq] at h2
                obtain ⟨rfl, rfl⟩ := h2
                exact hnext _ (ih'.1 h)
              · rw [h'] at h; cases h
              · rw [h'] at h; cases h
            · rintro ⟨h1, h2, h3, h4, h5, h6, h7⟩
              have hr := (recordAt_fields s p r).2 ⟨h3, h4, h5, h6⟩
              subst hr
              exact ih'.2 (by rw [h3, ← halign] at h7; exact h7)
    · rw [if_neg hp]
      simp only [Except.ok.injEq]
      cases rs with
      | nil => simp [recordChain]; omega
      | cons r rs => simp [recordChain, hp]

/-- A chain has at most one record for every four bytes of its area. -/
theorem recordChain_length (s : State) (stop p : Nat) (rs : List Rec) (h : recordChain s stop p rs) :
    4 * rs.length ≤ stop + 3 - p ∧ (rs ≠ [] → p + 4 * rs.length ≤ stop + 3 ∧ p < stop) := by
  induction rs generalizing p with
  | nil => simp
  | cons r rs ih =>
    obtain ⟨h1, h2, _, _, _, _, h7⟩ := h
    have := ih _ h7
    simp only [List.length_cons]
    cases rs with
    | nil => simp; omega
    | cons r' rs' =>
      have h3 := this.2 (by simp)
      simp only [List.length_cons] at *
      constructor
      · omega
      · intro _; omega

/-! ## DECODE's commit -/

/-- What the commit leaves at an entry: the record for it, or what was there (40_frame_codec.md R119). -/
theorem commitRecords_peek (k : Nat) (rs : List Rec) (pt : PacketTable) (e : Nat) :
    (Memory.peek (commitRecords Config.spec k rs pt).si e =
      if h : k ≤ e ∧ e - k < rs.length then some (rs[e - k]'h.2).si else Memory.peek pt.si e) ∧
    (Memory.peek (commitRecords Config.spec k rs pt).cmd e =
      if h : k ≤ e ∧ e - k < rs.length then some (rs[e - k]'h.2).cmd else Memory.peek pt.cmd e) ∧
    (Memory.peek (commitRecords Config.spec k rs pt).plen e =
      if h : k ≤ e ∧ e - k < rs.length then some (rs[e - k]'h.2).plen else Memory.peek pt.plen e) := by
  induction rs generalizing k pt with
  | nil => simp [commitRecords]
  | cons r rs ih =>
    obtain ⟨h1, h2, h3⟩ := ih (k + 1) ((((pt.writeSI k r.si).writeCMD k r.cmd).writePLEN k r.plen).writePayload
      Config.spec k 0 r.payload)
    simp only [commitRecords, h1, h2, h3]
    simp only [writePayload_si, writePayload_cmd, writePayload_plen, writePLEN_si, writePLEN_cmd, writePLEN_plen,
      writeCMD_si, writeCMD_cmd, writeCMD_plen, writeSI_si, writeSI_cmd, writeSI_plen, peek_poke, List.length_cons]
    by_cases he : e = k
    · subst he; simp
    · by_cases hin : k + 1 ≤ e ∧ e - (k + 1) < rs.length
      · have hin' : k ≤ e ∧ e - k < rs.length + 1 := by omega
        rw [dif_pos hin, dif_pos hin', dif_pos hin, dif_pos hin', dif_pos hin, dif_pos hin']
        have hs : e - k = (e - (k + 1)) + 1 := by omega
        simp only [hs, List.getElem_cons_succ, and_self]
      · have hin' : ¬(k ≤ e ∧ e - k < rs.length + 1) := by omega
        rw [dif_neg hin, dif_neg hin', dif_neg hin, dif_neg hin', dif_neg hin, dif_neg hin']
        simp [he]

/-- What the commit leaves at a payload byte, for records whose payloads fit an entry. -/
theorem commitRecords_payload (k : Nat) (rs : List Rec) (pt : PacketTable) (hfit : ∀ r ∈ rs, r.payload.length ≤ 236)
    (e j : Nat) (hj : j < 236) :
    Memory.peek (commitRecords Config.spec k rs pt).payload (payloadKey Config.spec e j) =
      if h : ∃ h : k ≤ e ∧ e - k < rs.length, j < (rs[e - k]'h.2).payload.length
        then some ((rs[e - k]'h.1.2).payload[j]'h.2) else Memory.peek pt.payload (payloadKey Config.spec e j) := by
  induction rs generalizing k pt with
  | nil => simp [commitRecords]
  | cons r rs ih =>
    have hr : r.payload.length ≤ 236 := hfit r (by simp)
    rw [commitRecords, ih (k + 1) _ (fun r' h => hfit r' (by simp [h]))]
    simp only [writePayload_payload, writePLEN_payload, writeCMD_payload, writeSI_payload]
    have hkey : ∀ a b, payloadKey Config.spec a b = a * 236 + b := fun _ _ => rfl
    by_cases he : e = k
    · subst he
      rw [dif_neg (by rintro ⟨⟨h, _⟩, _⟩; omega), peek_pokeList]
      simp only [hkey, Nat.sub_self, List.getElem_cons_zero, List.length_cons]
      by_cases hjl : j < r.payload.length
      · rw [if_pos (by omega), dif_pos ⟨⟨le_rfl, by omega⟩, hjl⟩, show e * 236 + j - (e * 236 + 0) = j by omega,
          List.getElem?_eq_getElem hjl]
      · rw [if_neg (by omega), dif_neg (by rintro ⟨_, h⟩; omega)]
    · by_cases hin : ∃ h : k + 1 ≤ e ∧ e - (k + 1) < rs.length, j < (rs[e - (k + 1)]'h.2).payload.length
      · have hs : e - k = (e - (k + 1)) + 1 := by obtain ⟨h, _⟩ := hin; omega
        have hin' : ∃ h : k ≤ e ∧ e - k < (r :: rs).length, j < ((r :: rs)[e - k]'h.2).payload.length := by
          obtain ⟨h, h'⟩ := hin
          refine ⟨⟨by omega, by simp; omega⟩, ?_⟩
          simpa only [hs, List.getElem_cons_succ] using h'
        rw [dif_pos hin, dif_pos hin']
        simp only [hs, List.getElem_cons_succ]
      · have hin' : ¬∃ h : k ≤ e ∧ e - k < (r :: rs).length, j < ((r :: rs)[e - k]'h.2).payload.length := by
          rintro ⟨h, h'⟩
          have hs : e - k = (e - (k + 1)) + 1 := by omega
          refine hin ⟨⟨by omega, by simp at h; omega⟩, ?_⟩
          simpa only [hs, List.getElem_cons_succ] using h'
        rw [dif_neg hin, dif_neg hin', peek_pokeList_outside]
        simp only [hkey]
        rcases Nat.lt_or_gt_of_ne he with h | h
        · left; nlinarith
        · right; nlinarith

end Sys2Proof.Machine
end

