-- ==== Sys2Proof/Laws/PerInstr.lean ====
section
/-! SUPPORT. A fact about every instruction, one lemma per constructor: the bits the encoder writes have the mask and the
match value of the instruction's row in spec/opcode_table.json. -/

namespace Sys2Proof.Laws

/-- The row's "mask" in spec/opcode_table.json. -/
def rowMask : Instr → Half
  | .nop => 0xF
  | .encode => 0xF
  | .decode => 0xF
  | .crc => 0xF
  | .cmdClassify => 0xF
  | .cmdMakeGet => 0xF
  | .cmdMakeSet => 0xF
  | .cmdMakeEvent => 0xF
  | .pipeCmdPack => 0xF
  | .pipeCmdUnpack => 0xF
  | .pipeOpenPack => 0xF
  | .pipeOpenUnpack => 0xF
  | .illegalOp _ => 0xC
  | .serviceCommandEvent _ _ => 0x8000
  | .serviceCommandSetReg _ _ => 0xC000
  | .serviceCommandGetReg _ => 0xF000
  | .serviceCommandOther0 _ => 0xF000
  | .serviceCommandOther2 _ => 0xF000
  | .serviceCommandOther3 _ => 0xF000
  | .pipeDataCommandWord _ _ _ _ => 0x0000

/-- The row's "match" in spec/opcode_table.json. -/
def rowMatch : Instr → Half
  | .nop => 0x0
  | .encode => 0x1
  | .decode => 0x2
  | .crc => 0x3
  | .cmdClassify => 0x4
  | .cmdMakeGet => 0x5
  | .cmdMakeSet => 0x6
  | .cmdMakeEvent => 0x7
  | .pipeCmdPack => 0x8
  | .pipeCmdUnpack => 0x9
  | .pipeOpenPack => 0xA
  | .pipeOpenUnpack => 0xB
  | .illegalOp _ => 0xC
  | .serviceCommandEvent _ _ => 0x8000
  | .serviceCommandSetReg _ _ => 0x4000
  | .serviceCommandGetReg _ => 0x1000
  | .serviceCommandOther0 _ => 0x0000
  | .serviceCommandOther2 _ => 0x2000
  | .serviceCommandOther3 _ => 0x3000
  | .pipeDataCommandWord _ _ _ _ => 0x0000

/-- The encoding of a well-formed instruction has its row's fixed bits. -/
def TableRow.Statement (i : Instr) : Prop := i.wellFormed = true → encodeWord i &&& rowMask i = rowMatch i

theorem TableRow.nop : Statement (.nop) := fun _ => by decide
theorem TableRow.encode : Statement (.encode) := fun _ => by decide
theorem TableRow.decode : Statement (.decode) := fun _ => by decide
theorem TableRow.crc : Statement (.crc) := fun _ => by decide
theorem TableRow.cmdClassify : Statement (.cmdClassify) := fun _ => by decide
theorem TableRow.cmdMakeGet : Statement (.cmdMakeGet) := fun _ => by decide
theorem TableRow.cmdMakeSet : Statement (.cmdMakeSet) := fun _ => by decide
theorem TableRow.cmdMakeEvent : Statement (.cmdMakeEvent) := fun _ => by decide
theorem TableRow.pipeCmdPack : Statement (.pipeCmdPack) := fun _ => by decide
theorem TableRow.pipeCmdUnpack : Statement (.pipeCmdUnpack) := fun _ => by decide
theorem TableRow.pipeOpenPack : Statement (.pipeOpenPack) := fun _ => by decide
theorem TableRow.pipeOpenUnpack : Statement (.pipeOpenUnpack) := fun _ => by decide
theorem TableRow.illegalOp (op : BitVec 4) : Statement (.illegalOp op) := by
  show Instr.wellFormed (.illegalOp op) = true → encodeWord (.illegalOp op) &&& 0xC = 0xC
  revert op; decide
theorem TableRow.serviceCommandEvent (counter : BitVec 7) (event : BitVec 8) : Statement (.serviceCommandEvent counter event) := fun _ => by
  apply BitVec.eq_of_getLsbD_eq
  intro n hn
  simp only [rowMask, rowMatch, encodeWord, BitVec.getLsbD_and, BitVec.getLsbD_append]
  interval_cases n <;> simp
theorem TableRow.serviceCommandSetReg (x : BitVec 2) (reg : BitVec 12) : Statement (.serviceCommandSetReg x reg) := fun _ => by
  apply BitVec.eq_of_getLsbD_eq
  intro n hn
  simp only [rowMask, rowMatch, encodeWord, BitVec.getLsbD_and, BitVec.getLsbD_append]
  interval_cases n <;> simp
theorem TableRow.serviceCommandGetReg (reg : BitVec 12) : Statement (.serviceCommandGetReg reg) := fun _ => by
  apply BitVec.eq_of_getLsbD_eq
  intro n hn
  simp only [rowMask, rowMatch, encodeWord, BitVec.getLsbD_and, BitVec.getLsbD_append]
  interval_cases n <;> simp
theorem TableRow.serviceCommandOther0 (low : BitVec 12) : Statement (.serviceCommandOther0 low) := fun _ => by
  apply BitVec.eq_of_getLsbD_eq
  intro n hn
  simp only [rowMask, rowMatch, encodeWord, BitVec.getLsbD_and, BitVec.getLsbD_append]
  interval_cases n <;> simp
theorem TableRow.serviceCommandOther2 (low : BitVec 12) : Statement (.serviceCommandOther2 low) := fun _ => by
  apply BitVec.eq_of_getLsbD_eq
  intro n hn
  simp only [rowMask, rowMatch, encodeWord, BitVec.getLsbD_and, BitVec.getLsbD_append]
  interval_cases n <;> simp
theorem TableRow.serviceCommandOther3 (low : BitVec 12) : Statement (.serviceCommandOther3 low) := fun _ => by
  apply BitVec.eq_of_getLsbD_eq
  intro n hn
  simp only [rowMask, rowMatch, encodeWord, BitVec.getLsbD_and, BitVec.getLsbD_append]
  interval_cases n <;> simp
theorem TableRow.pipeDataCommandWord (port : BitVec 9) (metadata close : BitVec 1) (counter : BitVec 5) : Statement (.pipeDataCommandWord port metadata close counter) := fun _ => by
  simp [rowMask, rowMatch]

end Sys2Proof.Laws
end

