-- ==== Sys2Proof/Tests/Slice0.lean ====
section
/-! SUPPORT. Tests on small states, with expected values from 95_test_vectors.md and the rules' own examples, and, for
each statement with hypotheses, a witness that meets them, clause by clause at the ends of their ranges. -/

namespace Sys2Proof.Tests

open Sys2Proof.Machine

/-! ## States to test on -/

/-- The state an outcome goes on to. -/
def after (o : Host.Outcome State Fault Refusal) : State :=
  match o with
  | .next s => s
  | .fault _ => State.reset
  | .refused _ => State.reset

/-- The bytes `bs` from address `a` on. -/
def bytesAt (a : Nat) (bs : List Byte) : Memory 8 := (bs.zipIdx a).map fun p => (p.2, p.1)

/-- A received frame: its bytes in `FB` and their number in `FLEN`. -/
def rx (bs : List Byte) : State := { State.reset with fb := bytesAt 0 bs, flen := BitVec.ofNat 8 bs.length }

/-- Packets to encode, from entry 0 on. -/
def tx (ps : List (Byte × Half × List Byte)) : State :=
  { State.reset with
    pcount := BitVec.ofNat 8 ps.length
    devid := 0x0123456789ABCDEF
    pt := { si := ps.zipIdx.map fun p => (p.2, p.1.1)
            cmd := ps.zipIdx.map fun p => (p.2, p.1.2.1)
            plen := ps.zipIdx.map fun p => (p.2, BitVec.ofNat 8 p.1.2.2.length)
            payload := ps.zipIdx.flatMap fun p => bytesAt (p.2 * 236) p.1.2.2 } }

/-- `PT[k].PLEN` overwritten by the host. -/
def withPLEN (k : Nat) (len : Byte) (s : State) : State := s.setPt (s.pt.writePLEN k len)

/-- The three operand registers loaded. -/
def args (a0 a1 a2 : Word) : State := { State.reset with arg0 := a0, arg1 := a1, arg2 := a2 }

/-- Frame A of 95_test_vectors.md. -/
def frameA : List Byte := [0x02, 0x5A, 0x04, 0, 0xEF, 0xCD, 0xAB, 0x89, 0x67, 0x45, 0x23, 0x01, 0, 0x01, 0x01, 0x11]

/-- The bytes of vector E-C. -/
def frameC : List Byte := [0x87, 0x67, 0x0D, 0x01, 0xEF, 0xCD, 0xAB, 0x89, 0x67, 0x45, 0x23, 0x01, 0, 0x01, 0x01, 0x11,
  0x05, 0x03, 0x05, 0x82, 0x01, 0x02, 0x03, 0x04, 0x05]

/-- The operands of vector E-C. -/
def packetsC : State :=
  { tx [(1, 0x1101, []), (3, 0x8205, [1, 2, 3, 4, 5])] with fflags := 1 }

/-- The bytes of vector D-OVR1: a record of one payload byte in a 4-byte area. -/
def overrun : List Byte := [0xB6, 0x2C, 0x04, 0, 0xEF, 0xCD, 0xAB, 0x89, 0x67, 0x45, 0x23, 0x01, 0x01, 0x01, 0x01, 0x11]

/-- Entry `k` holding a pipe-open payload (vector O-5): port 0x200, reserved field 0x1234. -/
def opened (k : Nat) (len : Byte) : State :=
  { args 0 0 (BitVec.ofNat 64 k) with
    pt := { si := [], cmd := [], plen := [(k, len)],
            payload := bytesAt (k * 236) [0, 0, 0, 0, 0, 0, 0, 0, 0x00, 0x02, 0x34, 0x12] } }

/-! ## Decoding, one word per constructor, from 30_encoding.md R74, R76, R80, R81 -/

theorem test_decode_nop : decode .op4 [0b0000#8] = .ok .nop := by decide
theorem test_decode_encode : decode .op4 [0b0001#8] = .ok .encode := by decide
theorem test_decode_decode : decode .op4 [0b0010#8] = .ok .decode := by decide
theorem test_decode_crc : decode .op4 [0b0011#8] = .ok .crc := by decide
theorem test_decode_cmdClassify : decode .op4 [0b0100#8] = .ok .cmdClassify := by decide
theorem test_decode_cmdMakeGet : decode .op4 [0b0101#8] = .ok .cmdMakeGet := by decide
theorem test_decode_cmdMakeSet : decode .op4 [0b0110#8] = .ok .cmdMakeSet := by decide
theorem test_decode_cmdMakeEvent : decode .op4 [0b0111#8] = .ok .cmdMakeEvent := by decide
theorem test_decode_pipeCmdPack : decode .op4 [0b1000#8] = .ok .pipeCmdPack := by decide
theorem test_decode_pipeCmdUnpack : decode .op4 [0b1001#8] = .ok .pipeCmdUnpack := by decide
theorem test_decode_pipeOpenPack : decode .op4 [0b1010#8] = .ok .pipeOpenPack := by decide
theorem test_decode_pipeOpenUnpack : decode .op4 [0b1011#8] = .ok .pipeOpenUnpack := by decide
theorem test_decode_illegalOp : decode .op4 [0b1100#8] = .ok (.illegalOp 0xC) ∧
    decode .op4 [0b1111#8] = .ok (.illegalOp 0xF) := by decide
/-- Bits 7:4 of the write data are ignored (20_memory.md R51; vector N-4). -/
theorem test_decode_ignores_high_bits : decode .op4 [0x12#8] = .ok .decode := by decide
theorem test_decode_serviceCommandEvent :
    decode .serviceCommand16 [0b00000101#8, 0b10000010#8] = .ok (.serviceCommandEvent 2 5) := by decide
theorem test_decode_serviceCommandSetReg :
    decode .serviceCommand16 [0b10000000#8, 0b01010000#8] = .ok (.serviceCommandSetReg 0b01 0x080) := by decide
theorem test_decode_serviceCommandGetReg :
    decode .serviceCommand16 [0b00000001#8, 0b00010001#8] = .ok (.serviceCommandGetReg 0x101) := by decide
theorem test_decode_serviceCommandOther0 :
    decode .serviceCommand16 [0b01100101#8, 0b00000100#8] = .ok (.serviceCommandOther0 0x465) := by decide
theorem test_decode_serviceCommandOther2 :
    decode .serviceCommand16 [0b00000000#8, 0b00100000#8] = .ok (.serviceCommandOther2 0) := by decide
theorem test_decode_serviceCommandOther3 :
    decode .serviceCommand16 [0b11111111#8, 0b00111111#8] = .ok (.serviceCommandOther3 0xFFF) := by decide
/-- Port 0x1A5, no metadata, close, counter 3 (vector P-5). -/
theorem test_decode_pipeDataCommandWord :
    decode .pipeCommand16 [0b10100011#8, 0b11010010#8] = .ok (.pipeDataCommandWord 0b110100101 0 1 0b00011) := by decide
theorem test_decode_refuses_no_byte : decode .op4 [] = .error (.noByte .op4) := by decide
theorem test_decode_refuses_half_word :
    decode .serviceCommand16 [0x05] = .error (.halfMissing .serviceCommand16) := by decide

/-- The host's question on rows of the table: 4 bits, and 16 bits. -/
theorem test_decodeTableWord : decodeTableWord 8 0x3 = some .crc ∧ decodeTableWord 8 0xD = some (.illegalOp 0xD) ∧
    decodeTableWord 16 0x8000 = some (.serviceCommandEvent 0 0) ∧
    decodeTableWord 16 0x3000 = some (.serviceCommandOther3 0) := by decide

/-- The placed request is what the next step runs. -/
theorem test_step_runs_fetchWord : step (State.reset.withFetchWord 8 0x3) = exec .crc State.reset ∧
    step (State.reset.withFetchWord 16 0x1101) = exec (.serviceCommandGetReg 0x101) State.reset := ⟨rfl, rfl⟩

/-! ## Well-formedness: each check refuses an ill-formed term -/

theorem test_illformed_illegalOp : Instr.wellFormed (.illegalOp 0xB) = false := by decide
theorem test_illformed_wrfb : Line.wellFormed Config.spec (.wrfb 251 [1, 2]) = false := by decide
theorem test_illformed_wrpt : Line.wellFormed Config.spec (.wrpt 60 .si 0) = false := by decide
theorem test_illformed_wrpl : Line.wellFormed Config.spec (.wrpl 60 0 []) = false ∧
    Line.wellFormed Config.spec (.wrpl 0 235 [1, 2]) = false := by decide
theorem test_illformed_op : Line.wellFormed Config.spec (.op (.illegalOp 3)) = false ∧
    Line.wellFormed Config.spec (.op (.serviceCommandGetReg 0)) = false := by decide
theorem test_illformed_frame : Line.wellFormed Config.spec (.frame (List.replicate 253 0)) = false := by decide +kernel
theorem test_illformed_pkt : Line.wellFormed Config.spec (.pkt 60 0 0 []) = false ∧
    Line.wellFormed Config.spec (.pkt 0 0 0 (List.replicate 237 0)) = false := by decide +kernel

/-! ## The instructions, on vectors of 95_test_vectors.md -/

/-- N-1. -/
theorem test_nop : exec .nop { State.reset with status := 0x0204 } = .next State.reset := rfl
/-- N-2, N-3. -/
theorem test_illegalOp : exec (.illegalOp 0xC) State.reset = .next { State.reset with status := 0x0C0A } ∧
    exec (.illegalOp 0xF) State.reset = .next { State.reset with status := 0x0F0A } := ⟨rfl, rfl⟩
/-- CRC-12. -/
theorem test_crc : (after (exec .crc { rx frameA with arg0 := 2, arg1 := 14 })).res0 = 0x5A02 := by decide +kernel
/-- CRC-11. -/
theorem test_crc_range : (after (exec .crc (args 200 53 0))).status = 0x0308 := by decide
/-- E-C. -/
theorem test_encode : frameOf (after (exec .encode packetsC)) = frameC := by decide +kernel
/-- E-233. -/
theorem test_encode_too_large :
    (after (exec .encode (tx [(1, 1, List.replicate 233 0), (1, 1, [])]))).status = 0x0102 := by decide +kernel
/-- D-C. -/
theorem test_decode : packets Config.spec (after (exec .decode (rx frameC))) =
    [⟨0x0123456789ABCDEF, 1, 0x1101, []⟩, ⟨0x0123456789ABCDEF, 3, 0x8205, [1, 2, 3, 4, 5]⟩] := by decide +kernel
/-- D-TRAIL. -/
theorem test_decode_trail : (after (exec .decode (rx (frameA ++ [0])))).status = 0x0210 := by decide +kernel
/-- K8. -/
theorem test_cmdClassify : exec .cmdClassify (args 0x5080 0 0) =
    .next { args 0x5080 0 0 with res0 := 2, res1 := 0x080, res2 := 2, status := 0x0400 } := rfl
/-- K16. -/
theorem test_cmdClassify_reserved : (after (exec .cmdClassify (args 0x1F00 0 0))).res2 = 6 := by decide
/-- M1, M4. -/
theorem test_cmdMakeGet : (after (exec .cmdMakeGet (args 0x101 0 0))).res0 = 0x1101 ∧
    (after (exec .cmdMakeGet (args 0x1000 0 0))).status = 0x0508 := by decide
/-- M6, M7. -/
theorem test_cmdMakeSet : (after (exec .cmdMakeSet (args 0xFFF 0 0))).res0 = 0x4FFF ∧
    (after (exec .cmdMakeSet (args 0x1000 0 0))).status = 0x0608 := by decide
/-- M9, M10. -/
theorem test_cmdMakeEvent : (after (exec .cmdMakeEvent (args 0x05 0x80 0))).res0 = 0x8005 ∧
    (after (exec .cmdMakeEvent (args 0xFF 0xFFFFFFFFFFFFFFFF 0))).res0 = 0xFFFF := by decide
/-- P-5, P-4. -/
theorem test_pipeCmdPack : (after (exec .pipeCmdPack (args 3 0x1A5 1))).res0 = 0xD2A3 ∧
    (after (exec .pipeCmdPack (args 32 0x1A5 0))).res0 = 0xD280 := by decide
/-- P-11. -/
theorem test_pipeCmdUnpack : exec .pipeCmdUnpack (args 0xD2A3 0 0) =
    .next { args 0xD2A3 0 0 with res0 := 3, res1 := 0x1A5, res2 := 1, status := 0x0900 } := rfl
/-- O-1. -/
theorem test_pipeOpenPack : (after (exec .pipeOpenPack (args 0x0123456789ABCDEF 0x1A5 0))).ptPayload Config.spec 0 12 =
    [0xEF, 0xCD, 0xAB, 0x89, 0x67, 0x45, 0x23, 0x01, 0xA5, 0x01, 0, 0] := by decide +kernel
/-- O-5. -/
theorem test_pipeOpenUnpack : exec .pipeOpenUnpack (opened 0 12) =
    .next { opened 0 12 with res1 := 0x200, res2 := 0x1234, status := 0x0B20 } := rfl
/-- O-6. -/
theorem test_pipeOpenUnpack_short : (after (exec .pipeOpenUnpack (opened 0 11))).status = 0x0B09 := by decide +kernel
/-- K3, K6 and P-11, on the wire words. -/
theorem test_wire_words : (after (exec (.serviceCommandEvent 2 5) State.reset)).res0 = 3 ∧
    (after (exec (.serviceCommandSetReg 3 0xFFF) State.reset)).res2 = 6 ∧
    (after (exec (.pipeDataCommandWord 0x1A5 0 1 3) State.reset)).res1 = 0x1A5 := by decide
/-- RST-5. -/
theorem test_unassigned_reads_zero :
    (after (step { State.reset with hostq := [.readReg 0x10] })).reads = [0] := by decide

/-! ## Witnesses of the statements' hypotheses -/

theorem witness_NopAloneClearsStatus : Instr.wellFormed .nop = true ∧ exec .nop State.reset = .next State.reset ∧
    State.reset.status = 0 := ⟨rfl, rfl, rfl⟩

theorem witness_ReservedCodesReportIllegalOp : 0xC#4 ≤ 0xC#4 ∧ 0xC#4 ≤ 0xF#4 := by decide

/-- Also with each flag set. -/
theorem witness_EveryOperationWritesStatusWhole : Instr.wellFormed .decode = true ∧ Instr.format .decode = .op4 ∧
    (after (exec .decode (rx (frameA ++ [0])))).trail = true ∧
    (after (exec .pipeOpenUnpack (opened 0 12))).porthi = true := by decide +kernel

/-- A success and an error. -/
theorem witness_OperationsWriteOnlyWhatTheyName : Instr.format .crc = .op4 ∧
    (after (exec .crc (args 252 0 0))).err = 0 ∧ (after (exec .crc (args 253 0 0))).err ≠ 0 := by decide

theorem witness_CrcOperationResult :
    ((args 252 0 0).arg0.toNat ≤ 252 ∧ (args 252 0 0).arg1.toNat ≤ 252 - (args 252 0 0).arg0.toNat) ∧
    252 < (args 253 0 0).arg0.toNat ∧ 252 - (args 252 1 0).arg0.toNat < (args 252 1 0).arg1.toNat := by decide

/-- `PCOUNT` 61; 0; a `PLEN` of 237; payloads of 232 and 1 bytes, so `size` 241. -/
theorem witness_EncodeRefusesInOrder :
    60 < (tx (List.replicate 61 (0, 0, []))).pcount.toNat ∧ (tx []).pcount.toNat = 0 ∧
    (∃ k < (tx [(1, 1, List.replicate 237 0)]).pcount.toNat, 236 < ((tx [(1, 1, List.replicate 237 0)]).ptPLEN k).toNat) ∧
    (∀ k < (tx [(1, 1, List.replicate 232 0), (1, 1, [0])]).pcount.toNat,
      ((tx [(1, 1, List.replicate 232 0), (1, 1, [0])]).ptPLEN k).toNat ≤ 236) ∧
    240 < recordsSize Config.spec (tx [(1, 1, List.replicate 232 0), (1, 1, [0])]) 2 ∧
    recordsSize Config.spec (tx [(1, 1, List.replicate 236 0)]) 1 ≤ 240 := by decide +kernel

/-- One packet of 236 bytes, so `size` 240; and 60 packets. -/
theorem witness_EncodeWritesTheFrame :
    ((∀ k < 1, ((tx [(1, 1, List.replicate 236 0)]).ptPLEN k).toNat ≤ 236) ∧
      recordsSize Config.spec (tx [(1, 1, List.replicate 236 0)]) 1 ≤ 240) ∧
    (tx (List.replicate 60 (0, 0, []))).pcount.toNat = 60 ∧
    (∀ k < 60, ((tx (List.replicate 60 (0, 0, []))).ptPLEN k).toNat ≤ 236) ∧
    recordsSize Config.spec (tx (List.replicate 60 (0, 0, []))) 60 ≤ 240 := by decide +kernel

theorem witness_FrameLengthsAreBounded : (after (exec .encode packetsC)).err = 0 ∧
    (after (exec .decode (rx frameC))).err = 0 := by decide +kernel

/-- The packet tables differ in a payload byte beyond `PLEN` and in an entry beyond `PCOUNT`. -/
theorem witness_EncodeReadsOnlyThePackets :
    let s := tx [(1, 0x1101, [7])]
    let pt := (s.pt.writePayload Config.spec 0 1 [9]).writeSI 1 5
    pt ≠ s.pt ∧ ∀ k < s.pcount.toNat, State.ptSI { s with pt := pt } k = s.ptSI k ∧
      State.ptCMD { s with pt := pt } k = s.ptCMD k ∧ State.ptPLEN { s with pt := pt } k = s.ptPLEN k ∧
      ∀ j < (s.ptPLEN k).toNat, State.ptByte Config.spec { s with pt := pt } k j = s.ptByte Config.spec k j := by
  decide +kernel

/-- Lengths 253 and 11; `size` 241 in 252 bytes; 15 bytes with `size` 4; 15 bytes with `size` 3. -/
theorem witness_DecodeRefusesLengthsInOrder :
    252 < (rx (List.replicate 253 0)).flen.toNat ∧ (rx (frameA.take 11)).flen.toNat < 12 ∧
    ((rx (frameA.set 2 241 ++ List.replicate 236 0)).flen.toNat = 252 ∧
      240 < ((rx (frameA.set 2 241 ++ List.replicate 236 0)).fbByte 2).toNat) ∧
    ((rx (frameA.take 15)).flen.toNat < 12 + ((rx (frameA.take 15)).fbByte 2).toNat ∧
      12 ≤ (rx (frameA.take 15)).flen.toNat ∧ ((rx (frameA.take 15)).fbByte 2).toNat ≤ 240) ∧
    (12 + ((rx ((frameA.set 2 3).take 15)).fbByte 2).toNat ≤ (rx ((frameA.set 2 3).take 15)).flen.toNat ∧
      ((rx ((frameA.set 2 3).take 15)).fbByte 2).toNat < 4) := by decide +kernel

theorem lengthsOk_frameA : lengthsOk (rx frameA) := by unfold lengthsOk; decide

/-- A frame with a wrong CRC (D-CRC) and one with the right CRC. -/
theorem witness_DecodeComparesTheCrc :
    (lengthsOk (rx (frameA.set 12 1)) ∧ computedCrc (rx (frameA.set 12 1)) ≠ storedCrc (rx (frameA.set 12 1))) ∧
    (lengthsOk (rx frameA) ∧ computedCrc (rx frameA) = storedCrc (rx frameA)) := by
  unfold lengthsOk; decide +kernel

/-- Frame C is a chain of two records. -/
theorem witness_DecodeAcceptsExactlyRecordChains_chain :
    lengthsOk (rx frameC) ∧ computedCrc (rx frameC) = storedCrc (rx frameC) ∧
      recordChain (rx frameC) (frameStop (rx frameC)) 12 [⟨1, 0x1101, 0, []⟩, ⟨3, 0x8205, 5, [1, 2, 3, 4, 5]⟩] := by
  unfold lengthsOk recordChain recordChain recordChain; decide +kernel

/-- The record area of D-OVR1 is no chain of records. -/
theorem witness_DecodeAcceptsExactlyRecordChains_overrun :
    lengthsOk (rx overrun) ∧ computedCrc (rx overrun) = storedCrc (rx overrun) ∧
      ¬∃ rs, recordChain (rx overrun) (frameStop (rx overrun)) 12 rs := by
  refine ⟨by unfold lengthsOk; decide +kernel, by decide +kernel, ?_⟩
  have hstop : frameStop (rx overrun) = 16 := by decide +kernel
  have hlen : (rx overrun).fbByte 12 = 1 := by decide +kernel
  rintro ⟨rs, h⟩
  rw [hstop] at h
  cases rs with
  | nil => exact absurd h (by unfold recordChain; decide)
  | cons r rs =>
    obtain ⟨_, hle, hp, _⟩ := h
    rw [hp, hlen] at hle
    exact absurd hle (by decide)

/-- A failure before the CRC check and one in it. -/
theorem witness_DecodeFailureEffects : (after (exec .decode (rx (frameA.take 15)))).err = 1 ∧
    (after (exec .decode (rx (frameA.set 12 1)))).err = 4 ∧ (after (exec .decode (rx overrun))).err = 5 := by
  decide +kernel

theorem witness_NoPartialAcceptance : mayTrust (after (exec .decode (rx overrun))) = false ∧
    mayTrust (after (exec .decode (rx frameC))) = true ∧ Instr.nop ≠ .decode ∧ Instr.nop ≠ .pipeOpenPack := by
  decide +kernel

/-- A buffer with another byte at `FLEN`. -/
theorem witness_StaleBytesAreNotRead : Instr.format .decode = .op4 ∧ Instr.decode ≠ .crc ∧
    ∀ a < (rx frameA).flen.toNat,
      State.fbByte { rx frameA with fb := bytesAt 0 (frameA ++ [0xFF]) } a = (rx frameA).fbByte a := by decide +kernel

theorem witness_DecodeAfterEncodeGivesThePackets : (after (exec .encode packetsC)).err = 0 := by decide +kernel

/-- Frame C2's shape: padding after its first record, none after its last. -/
theorem witness_EncodeAfterDecodeGivesTheFrame :
    let s := after (exec .encode (tx [(0, 0, [0xAA]), (5, 0x1180, [0x10, 0x20])]))
    let t := after (exec .decode s)
    t.status = 0x0200 ∧
    (∀ k < 1, ∀ p < recordOff Config.spec t (k + 1), recordOff Config.spec t k + 4 + (t.ptPLEN k).toNat ≤ p →
      s.fbByte p = 0) ∧
    t.pcount.toNat = 2 ∧ recordsSize Config.spec t t.pcount.toNat = (s.fbByte 2).toNat := by decide +kernel

/-- In the CRC field, right after `size`, and in the last byte. -/
theorem witness_BitFlipOutsideSizeIsDetected :
    (after (exec .encode packetsC)).err = 0 ∧ 0 < (after (exec .encode packetsC)).flen.toNat ∧
      3 < (after (exec .encode packetsC)).flen.toNat ∧ 24 < (after (exec .encode packetsC)).flen.toNat := by
  decide +kernel

/-- Both ends of each class. -/
theorem witness_CmdClassifyResult :
    (0x8000 = (args 0x8000 0 0).arg0.toNat ∧ 0xFFFF = (args 0xFFFF 0 0).arg0.toNat) ∧
    (0x4000 = (args 0x4000 0 0).arg0.toNat ∧ 0x7FFF = (args 0x7FFF 0 0).arg0.toNat) ∧
    (0x1000 = (args 0x1000 0 0).arg0.toNat ∧ 0x1FFF = (args 0x1FFF 0 0).arg0.toNat) ∧
    (0x0FFF = (args 0x0FFF 0 0).arg0.toNat ∧ 0x2000 = (args 0x2000 0 0).arg0.toNat ∧
      0x3FFF = (args 0x3FFF 0 0).arg0.toNat) ∧ 0x10000 = (args 0x10000 0 0).arg0.toNat := by decide

/-- Range boundaries (95_test_vectors.md 2.5). -/
theorem witness_RegisterRanges : (regRange 0x000).code = 0 ∧ (regRange 0x001).code = 1 ∧ (regRange 0x07F).code = 1 ∧
    (regRange 0x080).code = 2 ∧ (regRange 0x0FF).code = 2 ∧ (regRange 0x100).code = 3 ∧ (regRange 0x17F).code = 3 ∧
    (regRange 0x180).code = 4 ∧ (regRange 0x1FF).code = 4 ∧ (regRange 0x200).code = 5 ∧ (regRange 0xEFF).code = 5 ∧
    (regRange 0xF00).code = 6 ∧ (regRange 0xFFF).code = 6 := by decide

/-- For CMD_MAKE_GET and CMD_MAKE_SET. -/
theorem witness_CmdMakeResults : (args 0xFFF 0 0).arg0.toNat < 0x1000 ∧ 0x1000 ≤ (args 0x1000 0 0).arg0.toNat := by decide

theorem witness_CmdMakeEventResult : (args 0xFF 0 0).arg0.toNat < 0x100 ∧ 0x100 ≤ (args 0x100 0 0).arg0.toNat := by decide

theorem witness_PipeCmdPackResult : ((args 0 511 3).arg1.toNat < 512 ∧ (args 0 511 3).arg2.toNat < 4) ∧
    512 ≤ (args 0 512 0).arg1.toNat ∧ 4 ≤ (args 0 0 4).arg2.toNat := by decide

theorem witness_PipeCmdUnpackResult : (args 0xFFFF 0 0).arg0.toNat < 0x10000 ∧
    0x10000 ≤ (args 0x10000 0 0).arg0.toNat := by decide

theorem witness_PipeWordsRoundTrip : (after (exec .pipeCmdUnpack (args 0xFFFF 0 0))).err = 0 ∧
    (after (exec .pipeCmdPack (args 33 511 3))).err = 0 := by decide

theorem witness_PipeOpenPackResult : ((args 0 511 59).arg1.toNat < 512 ∧ (args 0 511 59).arg2.toNat = 59) ∧
    512 ≤ (args 0 512 0).arg1.toNat ∧ 60 ≤ (args 0 0 60).arg2.toNat := by decide

theorem witness_PipeOpenUnpackResult :
    ((opened 59 12).arg2.toNat = 59 ∧ 12 ≤ ((opened 59 12).ptPLEN 59).toNat) ∧
    ((opened 59 11).arg2.toNat = 59 ∧ ((opened 59 11).ptPLEN 59).toNat < 12) ∧ 60 ≤ (opened 60 12).arg2.toNat := by decide

theorem witness_PipeOpenRoundTrip : (after (exec .pipeOpenPack (args 7 511 59))).err = 0 ∧
    (after (exec .pipeOpenPack (args 7 511 59))).arg2 = (args 7 511 59).arg2 := by decide +kernel

theorem witness_StepRunsTheDecodedInstruction :
    decode .op4 [(0xFFFFFFFFFFFFFFF3#64).extractLsb' 0 8] = .ok .crc ∧
    decode .serviceCommand16 [(0x1101#16).extractLsb' 0 8, (0x1101#16).extractLsb' 8 8] = .ok (.serviceCommandGetReg 0x101) ∧
    decode .pipeCommand16 [(0xD2A3#16).extractLsb' 0 8, (0xD2A3#16).extractLsb' 8 8] =
      .ok (.pipeDataCommandWord 0x1A5 0 1 3) := by decide

/-- The three single numbers need no witness; both ends of the range. -/
theorem witness_UnassignedRegisters : 0x10#8 ≤ 0x10#8 ∧ 0x10#8 ≤ 0xFF#8 := by decide

/-- The two last clauses: a `PLEN` of 237 with the 236 bytes the entry has written, and not with 235 of them. -/
theorem witness_InitialisedOperationsIgnoreUnspecifiedBytes : initialised Config.spec .encode packetsC = true ∧
    initialised Config.spec .decode (rx frameC) = true ∧ initialised Config.spec .pipeOpenUnpack (opened 59 12) = true ∧
    initialised Config.spec .crc { rx frameA with arg0 := 2, arg1 := 14 } = true ∧
    initialised Config.spec .encode (withPLEN 0 237 (tx [(1, 1, List.replicate 236 0)])) = true ∧
    initialised Config.spec .encode (withPLEN 0 237 (tx [(1, 1, List.replicate 235 0)])) = false := by decide +kernel

theorem witness_FrameLineLoadsTheBytes : (List.replicate 252 (0 : Byte)).length ≤ 252 ∧ ([] : List Byte).length ≤ 252 := by
  decide +kernel

/-- A legal state other than reset's, with a request waiting. -/
theorem witness_StepKeepsTheStateLegal : State.wf { packetsC with hostq := [.writeReg 0x0F 1] } = true ∧
    State.wf (rx frameC) = true := by decide +kernel

theorem witness_DecodeOfEncode : Instr.wellFormed (.illegalOp 0xC) = true ∧
    Instr.wellFormed (.pipeDataCommandWord 511 1 1 31) = true := by decide

/-- The longest and the shortest frame of one record. -/
theorem witness_RecordsArePlacedAligned : 0 < 1 ∧ recordsEnd Config.spec (tx [(1, 1, List.replicate 236 0)]) 1 = 252 ∧
    recordsSize Config.spec (tx [(1, 1, [])]) 1 = 4 := by decide +kernel

/-- The byte step from 0xFFFF by 0x00, whose value R101 gives. -/
theorem witness_Crc16IsTheBitLoopAndItsByteForm :
    0x00FF#16 = (0xFFFF#16 >>> 8) ^^^ (0#8).setWidth 16 ∧ 0x00F0#16 = 0x00FF#16 ^^^ (0x00FF#16 >>> 4) ∧
    crcByte Config.spec 0xFFFF 0 = 0xE1F0 := by decide +kernel

/-- Command codes of a reserved register and of an event. -/
theorem witness_EncodeRefusesNoCommandCode :
    exec .encode packetsC = .next (after (exec .encode packetsC)) ∧ (after (exec .encode packetsC)).status = 0x0100 ∧
    (after (exec .encode { packetsC with pt := { packetsC.pt with cmd := [(0, 0x1F00), (1, 0xFFFF)] } })).status = 0x0100 :=
  by refine ⟨rfl, ?_, ?_⟩ <;> decide +kernel

/-- An operation that succeeds and one that fails for another reason. -/
theorem witness_TooManyPacketsCannotOccur :
    (after (exec .decode (rx frameC))).err = 0 ∧ (after (exec .decode (rx overrun))).err = 5 := by decide +kernel

/-- The last address inside and the first outside. -/
theorem witness_FrameBufferSpaceAccess :
    (after (step { State.reset with hostq := [.writeFB 251 0x1FF] })).fbByte 251 = 0xFF ∧
    step { State.reset with hostq := [.writeFB 252 0x1FF] } = .next State.reset := ⟨by decide +kernel, rfl⟩

/-- The last entry and payload byte inside and the first outside. -/
theorem witness_PacketTableSpaceAccess :
    (after (step { State.reset with hostq := [.writePT 59 .cmd 0x1FFFF] })).ptCMD 59 = 0xFFFF ∧
    (after (step { State.reset with hostq := [.writePTByte 59 235 7] })).ptByte Config.spec 59 235 = 7 ∧
    step { State.reset with hostq := [.writePT 60 .cmd 1] } = .next State.reset ∧
    step { State.reset with hostq := [.writePTByte 59 236 7] } = .next State.reset :=
  ⟨by decide +kernel, by decide +kernel, rfl, rfl⟩

theorem witness_EncodeOfDecode : decode .op4 [0xFF#8] = .ok (.illegalOp 0xF) ∧
    decode .serviceCommand16 [0xFF#8, 0x3F#8] = .ok (.serviceCommandOther3 0xFFF) ∧
    decode .pipeCommand16 [0xFF#8, 0xFF#8] = .ok (.pipeDataCommandWord 511 1 1 31) := by decide

/-- Both ends of each range. -/
theorem witness_AlternativeSetClass :
    0xFFF = (args 0xFFF 0 0).arg0.toNat ∧ (0x2000 = (args 0x2000 0 0).arg0.toNat ∧ 0x2FFF = (args 0x2FFF 0 0).arg0.toNat) ∧
    0x3000 = (args 0x3000 0 0).arg0.toNat ∧ 0x7FFF = (args 0x7FFF 0 0).arg0.toNat := by decide

/-- D16 (92_eei_decisions.md): with the alternative class 0x4000 to 0x7FFF become `OTHER`, and a SET_REG code is 0x2000
and the register number. -/
theorem test_setAlternative : (after (execWith Config.setAlternative .cmdMakeSet (args 0xFFF 0 0))).res0 = 0x2FFF ∧
    (after (execWith Config.setAlternative .cmdClassify (args 0x5080 0 0))).res0 = 0 := by decide

end Sys2Proof.Tests
end

section
/-! ## The machine at this spec's parameters (00_scope.md R5) -/

namespace Sys2Proof.Machine

/-- Each arm of `exec` is the operation that the same arm of `execWith` calls with its parameters. -/
theorem execWith_spec (i : Instr) (s : State) : execWith Config.spec i s = exec i s := by
  cases i <;> rfl

/-- Settles O55: the two steps differ only in what runs an instruction, and `execWith_spec` makes that the same. -/
theorem machineIsTheSpecInstance : Obligations.MachineIsTheSpecInstance := by
  have hrun : execWith Config.spec = exec := funext fun i => funext (execWith_spec i)
  exact ⟨execWith_spec, fun s => congrArg (performNext Config.spec · s) hrun⟩

end Sys2Proof.Machine
end

section
/-! ## The OPEN parameters (00_scope.md R5, 20_memory.md R61)

A definition that takes its parameters without recursion is the same function of the other sixteen by unfolding. The
work is in the three recursive ones, `recordOff`, `walkRecords` and `commitRecords`, which need an induction each, and
in the two operations whose operand width is a parameter. -/

namespace Sys2Proof

/-- `c` with other values of the OPEN parameters `PIPE_SERVICE_INDEX` and `UNIT_BASE`. -/
def Config.withOpen (c : Config) (serviceIndex : Byte) (base : Nat) : Config :=
  { c with pipeServiceIndex := serviceIndex, unitBase := base }

namespace Machine

section
variable (c : Config) (serviceIndex : Byte) (base : Nat) (s : State)

@[simp] theorem crc16_withOpen (bs : List Byte) : crc16 (c.withOpen serviceIndex base) bs = crc16 c bs := rfl

/-! ### ENCODE -/

@[simp] theorem recordOff_withOpen (k : Nat) : recordOff (c.withOpen serviceIndex base) s k = recordOff c s k := by
  induction k with
  | zero => rfl
  | succ k ih => exact congrArg (· + alignUp c.align (c.recHdrBytes + (s.ptPLEN k).toNat)) ih

@[simp] theorem recordsEnd_withOpen (n : Nat) : recordsEnd (c.withOpen serviceIndex base) s n = recordsEnd c s n := by
  simp only [recordsEnd, recordOff_withOpen]; rfl

@[simp] theorem recordsSize_withOpen (n : Nat) :
    recordsSize (c.withOpen serviceIndex base) s n = recordsSize c s n := by
  simp only [recordsSize, recordsEnd_withOpen]; rfl

@[simp] theorem encodeCheck_withOpen : encodeCheck (c.withOpen serviceIndex base) s = encodeCheck c s := by
  simp only [encodeCheck, recordsSize_withOpen]; rfl

@[simp] theorem recordBytes_withOpen (n k : Nat) :
    recordBytes (c.withOpen serviceIndex base) s n k = recordBytes c s n k := by
  simp only [recordBytes, recordOff_withOpen]; rfl

@[simp] theorem encodeBody_withOpen (n : Nat) : encodeBody (c.withOpen serviceIndex base) s n = encodeBody c s n := by
  simp only [encodeBody, recordsSize_withOpen, recordOff_withOpen, recordBytes_withOpen]

theorem encodeOp_withOpen : encodeOp (c.withOpen serviceIndex base) s = encodeOp c s := by
  simp only [encodeOp, encodeCheck_withOpen, recordsEnd_withOpen, encodeBody_withOpen, crc16_withOpen]

/-! ### DECODE -/

@[simp] theorem walkRecords_withOpen (stop fuel p : Nat) (acc : List Rec) :
    walkRecords (c.withOpen serviceIndex base) s stop fuel p acc = walkRecords c s stop fuel p acc := by
  induction fuel generalizing p acc with
  | zero => rfl
  | succ fuel ih => simp only [walkRecords, ih]; rfl

@[simp] theorem commitRecords_withOpen (k : Nat) (rs : List Rec) (pt : PacketTable) :
    commitRecords (c.withOpen serviceIndex base) k rs pt = commitRecords c k rs pt := by
  induction rs generalizing k pt with
  | nil => rfl
  | cons r rs ih => exact ih _ _

theorem decodeFrame_withOpen : decodeFrame (c.withOpen serviceIndex base) s = decodeFrame c s := by
  have hcheck : decodeCheck (c.withOpen serviceIndex base) s = decodeCheck c s := rfl
  have hhdr : (c.withOpen serviceIndex base).hdrBytes = c.hdrBytes := rfl
  simp only [decodeFrame, hcheck, hhdr, crc16_withOpen, walkRecords_withOpen, commitRecords_withOpen]

/-! ### The operations that check a port -/

theorem pipePackOp_withOpen : pipePackOp (c.withOpen serviceIndex base) s = pipePackOp c s := by
  have hport : checked (c.withOpen serviceIndex base).pipePortBits s.arg1 = checked c.pipePortBits s.arg1 := rfl
  unfold pipePackOp
  rw [hport]
  cases checked c.pipePortBits s.arg1 with
  | none => rfl
  | some port => cases checked 2 s.arg2 <;> rfl

theorem openPackOp_withOpen : openPackOp (c.withOpen serviceIndex base) s = openPackOp c s := by
  have hport : checked (c.withOpen serviceIndex base).pipePortBits s.arg1 = checked c.pipePortBits s.arg1 := rfl
  have hentry : entryOperand (c.withOpen serviceIndex base) s.arg2 = entryOperand c s.arg2 := rfl
  unfold openPackOp
  rw [hport, hentry]
  cases checked c.pipePortBits s.arg1 with
  | none => rfl
  | some port => cases entryOperand c s.arg2 <;> rfl

/-! ### Instructions and steps -/

/-- No instruction reads an OPEN parameter (R5, R61). -/
theorem execWith_withOpen (i : Instr) : execWith (c.withOpen serviceIndex base) i s = execWith c i s := by
  cases i with
  | encode => exact congrArg Host.Outcome.next (encodeOp_withOpen c serviceIndex base s)
  | decode => exact congrArg Host.Outcome.next (decodeFrame_withOpen c serviceIndex base s)
  | pipeCmdPack => exact congrArg Host.Outcome.next (pipePackOp_withOpen c serviceIndex base s)
  | pipeOpenPack => exact congrArg Host.Outcome.next (openPackOp_withOpen c serviceIndex base s)
  | _ => rfl

/-- No host access reads an OPEN parameter, whatever runs the instructions: in particular the accesses use offsets into
the spaces, not host addresses (R61). -/
theorem perform_withOpen (run : Runner) (a : HostAccess) :
    perform (c.withOpen serviceIndex base) run a s = perform c run a s := by
  cases a <;> rfl

theorem performNext_withOpen (run : Runner) :
    performNext (c.withOpen serviceIndex base) run s = performNext c run s := by
  unfold performNext
  cases s.hostq with
  | nil => rfl
  | cons a rest => exact perform_withOpen c serviceIndex base (s.setHostq rest) run a

/-- No step reads an OPEN parameter (R5, R61). -/
theorem stepWith_withOpen : stepWith (c.withOpen serviceIndex base) s = stepWith c s := by
  have hrun : execWith (c.withOpen serviceIndex base) = execWith c :=
    funext fun i => funext fun t => execWith_withOpen c serviceIndex base t i
  unfold stepWith
  rw [hrun, performNext_withOpen]

end

/-- Settles O56: the configuration of the statement is `Config.withOpen`. -/
theorem openParametersAreNotRead : Obligations.OpenParametersAreNotRead :=
  fun c serviceIndex base i s =>
    ⟨execWith_withOpen c serviceIndex base s i, stepWith_withOpen c serviceIndex base s⟩

end Machine
end Sys2Proof
end

section
/-! ## The alternative SET_REG class (92_eei_decisions.md D16)

The masks of the class tests cut a command code at a bit, so each test is a range (`classify_setAlternative`).
With that, CMD_CLASSIFY and CMD_MAKE_SET come down to what they do with an operand in range, at any parameters. -/

namespace Sys2Proof.Machine

/-- Masking with ones from bit `n` up rounds down to a multiple of `2 ^ n`. -/
theorem toNat_and_highMask (code : Half) (n : Nat) :
    (code &&& BitVec.allOnes 16 <<< n).toNat = code.toNat / 2 ^ n * 2 ^ n := by
  have hle : code.toNat / 2 ^ n * 2 ^ n ≤ code.toNat := Nat.div_mul_le_self _ _
  rw [← BitVec.shiftLeft_ushiftRight, BitVec.toNat_shiftLeft, BitVec.toNat_ushiftRight, Nat.shiftRight_eq_div_pow,
    Nat.shiftLeft_eq, Nat.mod_eq_of_lt (hle.trans_lt code.isLt)]

/-- The event test (41_command_codes.md R130) as a bound. -/
theorem and_eventFlag_ne_zero_iff (code : Half) : code &&& 0x8000#16 ≠ 0 ↔ 0x8000 ≤ code.toNat := by
  have hmask : (code &&& 0x8000#16).toNat = code.toNat / 2 ^ 15 * 2 ^ 15 := toNat_and_highMask code 15
  have hlt := code.isLt
  rw [ne_eq, ← BitVec.toNat_inj, hmask, show (0 : Half).toNat = 0 from rfl]
  omega

/-- A class test on the four high bits (R130) as a range of 0x1000 codes. -/
theorem and_classMask_eq_iff (code m : Half) (h : 0x1000 ∣ m.toNat) :
    code &&& 0xF000#16 = m ↔ m.toNat ≤ code.toNat ∧ code.toNat < m.toNat + 0x1000 := by
  have hmask : (code &&& 0xF000#16).toNat = code.toNat / 2 ^ 12 * 2 ^ 12 := toNat_and_highMask code 12
  rw [← BitVec.toNat_inj, hmask]
  omega

/-- The classes of R130 at the parameters of D16, by range. -/
theorem classify_setAlternative (code : Half) : classify Config.setAlternative code =
    if 0x8000 ≤ code.toNat then .event (code.extractLsb' 0 8) (code.extractLsb' 8 7)
    else if 0x2000 ≤ code.toNat ∧ code.toNat < 0x3000 then .setReg (code.extractLsb' 0 12)
    else if 0x1000 ≤ code.toNat ∧ code.toNat < 0x2000 then .getReg (code.extractLsb' 0 12)
    else .other := by
  have hset := and_classMask_eq_iff code 0x2000#16 (by decide)
  have hget := and_classMask_eq_iff code 0x1000#16 (by decide)
  exact if_congr (and_eventFlag_ne_zero_iff code) rfl (if_congr hset rfl (if_congr hget rfl rfl))

/-- CMD_CLASSIFY of an operand in range (R132), at any parameters. -/
theorem classifyOp_eq_of_triple (c : Config) {s : State} {f0 f1 f2 : Word} (h : s.arg0.toNat < 0x10000)
    (ht : (classify c (s.arg0.setWidth 16)).triple = (f0, f1, f2)) :
    classifyOp c s = { s with res0 := f0, res1 := f1, res2 := f2, status := 0x0400 } := by
  rw [classifyOp, checked_eq_some.2 ⟨h, rfl⟩]
  simp only [ht]
  rfl

/-- Class bits in the four high bits and a register number below them do not overlap (30_encoding.md R74). -/
theorem toNat_classBits_or_reg (k : BitVec 4) (r : BitVec 12) :
    ((k ++ 0#12) ||| r.setWidth 16).toNat = k.toNat * 0x1000 + r.toNat := by
  rw [BitVec.toNat_or, BitVec.toNat_append, BitVec.toNat_ofNat, Nat.zero_mod, Nat.or_zero, BitVec.toNat_setWidth,
    Nat.mod_eq_of_lt (r.isLt.trans (by decide)), ← Nat.shiftLeft_add_eq_or_of_lt r.isLt, Nat.shiftLeft_eq]

/-- CMD_MAKE_GET or CMD_MAKE_SET of an operand in range (R133, R134), for any class bits in the four high bits. -/
theorem makeRegOp_eq_of_lt (op k : BitVec 4) {s : State} (h : s.arg0.toNat < 0x1000) :
    makeRegOp op (k ++ 0#12) s = { s with
      res0 := BitVec.ofNat 64 (k.toNat * 0x1000 + s.arg0.toNat), status := statusWord .ok false false op } := by
  have hcode : ((k ++ 0#12) ||| (s.arg0.setWidth 12).setWidth 16).setWidth 64 =
      BitVec.ofNat 64 (k.toNat * 0x1000 + s.arg0.toNat) := by
    apply BitVec.eq_of_toNat_eq
    rw [BitVec.toNat_setWidth, toNat_classBits_or_reg, BitVec.toNat_setWidth, Nat.mod_eq_of_lt h, BitVec.toNat_ofNat]
  rw [makeRegOp, checked_eq_some.2 ⟨h, rfl⟩]
  simp only [hcode]
  rfl

/-- The register number of a command code held in an `ARG` register. -/
theorem extractLsb'_setWidth_reg (v : Word) : (v.setWidth 16).extractLsb' 0 12 = BitVec.ofNat 12 v.toNat := by
  apply BitVec.eq_of_toNat_eq
  simp

/-- Settles O57: the three ranges of `ARG0` fall into their branches of `classify_setAlternative`, and the class bits of
CMD_MAKE_SET are `0x2` in the high four bits. -/
theorem alternativeSetClass : Obligations.AlternativeSetClass := by
  rintro s v rfl
  have hcode (h : s.arg0.toNat < 0x8000) : (s.arg0.setWidth 16).toNat = s.arg0.toNat := by
    rw [BitVec.toNat_setWidth, Nat.mod_eq_of_lt (by omega)]
  refine ⟨fun h => ?makeSet, fun hlo hhi => ?setReg, fun hlo hhi => ?other⟩
  case makeSet => exact congrArg Host.Outcome.next (makeRegOp_eq_of_lt 0x6 0x2 h)
  case setReg =>
    have hreg : (BitVec.ofNat 12 s.arg0.toNat).setWidth 64 = BitVec.ofNat 64 (s.arg0.toNat % 4096) :=
      BitVec.eq_of_toNat_eq (by rw [BitVec.toNat_setWidth, BitVec.toNat_ofNat, BitVec.toNat_ofNat])
    refine congrArg Host.Outcome.next (classifyOp_eq_of_triple _ (by omega) ?_)
    rw [classify_setAlternative, hcode (by omega), if_neg (by omega), if_pos ⟨hlo, hhi⟩, extractLsb'_setWidth_reg,
      ← hreg]
    rfl
  case other =>
    refine congrArg Host.Outcome.next (classifyOp_eq_of_triple _ (by omega) ?_)
    rw [classify_setAlternative, hcode hhi, if_neg (by omega), if_neg (by omega), if_neg (by omega)]
    rfl

end Sys2Proof.Machine
end

section
/-! ## The ends of an operation

Each operation of the unit ends in one of a few ways. `OpEnd` lists them with the fields each one writes, and
`exec_opEnd` says that there are no others; what an operation leaves in `STATUS` and what it leaves unchanged follow. -/

namespace Sys2Proof.Machine

/-! ### The fields of `STATUS` (10_state.md R24) -/

section
variable (e : ErrCode) (trail porthi : Bool) (op : BitVec 4)

@[simp] theorem statusWord_err : (statusWord e trail porthi op).extractLsb' 0 4 = e.code := by
  cases e <;> revert trail porthi op <;> decide

@[simp] theorem statusWord_trail : (statusWord e trail porthi op).getLsbD 4 = trail := by
  cases e <;> revert trail porthi op <;> decide

@[simp] theorem statusWord_porthi : (statusWord e trail porthi op).getLsbD 5 = porthi := by
  cases e <;> revert trail porthi op <;> decide

@[simp] theorem statusWord_reservedLow : (statusWord e trail porthi op).extractLsb' 6 2 = 0 := by
  cases e <;> revert trail porthi op <;> decide

@[simp] theorem statusWord_lastop : (statusWord e trail porthi op).extractLsb' 8 4 = op := by
  cases e <;> revert trail porthi op <;> decide

@[simp] theorem statusWord_reservedHigh : (statusWord e trail porthi op).extractLsb' 12 4 = 0 := by
  cases e <;> revert trail porthi op <;> decide

end

theorem ErrCode.code_le_ten (e : ErrCode) : e.code.toNat ≤ 10 := by
  cases e <;> decide

@[simp] theorem finish_err (s : State) (op : BitVec 4) (trail porthi : Bool) :
    (s.finish op trail porthi).err = 0 :=
  statusWord_err .ok trail porthi op

/-! ### The ends -/

/-- The operation code of an instruction (30_encoding.md R80, R81). -/
def opCode (i : Instr) : BitVec 4 := (encodeWord i).extractLsb' 0 4

@[simp] theorem opCode_illegalOp (op : BitVec 4) : opCode (.illegalOp op) = op := by
  revert op; decide

/-- How operation `i` of the unit can end from state `s`, with arbitrary values in the fields it writes. -/
inductive OpEnd (s : State) : Instr → State → Prop where
  /-- NOP. -/
  | nop : OpEnd s .nop (s.finish 0x0 false false)
  /-- An error with no failure effects of its own. -/
  | raised (i : Instr) (e : ErrCode) : OpEnd s i (s.raiseError (opCode i) e)
  /-- A failing ENCODE (40_frame_codec.md R113). -/
  | encodeFailed (e : ErrCode) : OpEnd s .encode ((s.setFlen 0).raiseError 0x1 e)
  /-- A successful ENCODE (R112). -/
  | encoded (m : Memory 8) (x : Half) (len : Byte) :
    OpEnd s .encode ((((s.setFb m).setCrc x).setFlen len).finish 0x1 false false)
  /-- A failing DECODE (R120). -/
  | decodeFailed (x : Half) (e : ErrCode) : OpEnd s .decode (decodeFail (s.setCrc x) e)
  /-- A successful DECODE (R119). -/
  | decoded (x : Half) (d : Word) (f n : Byte) (pt : PacketTable) (trail : Bool) :
    OpEnd s .decode
      ((((((s.setCrc x).setDevid d).setFflags f).setPt pt).setPcount n).finish 0x2 trail false)
  /-- A successful CRC (R103). -/
  | crcDone (x : Half) (r : Word) : OpEnd s .crc (((s.setCrc x).setRes0 r).finish 0x3 false false)
  /-- An operation that answers in `RES0` alone. -/
  | oneResult (i : Instr) (r : Word) (hi : i ∈ [.cmdMakeGet, .cmdMakeSet, .cmdMakeEvent, .pipeCmdPack]) :
    OpEnd s i ((s.setRes0 r).finish (opCode i) false false)
  /-- An operation that answers in all three `RES` registers. -/
  | threeResults (i : Instr) (r0 r1 r2 : Word) (porthi : Bool)
    (hi : i ∈ [.cmdClassify, .pipeCmdUnpack, .pipeOpenUnpack]) (hporthi : porthi = true → i = .pipeOpenUnpack) :
    OpEnd s i ((((s.setRes0 r0).setRes1 r1).setRes2 r2).finish (opCode i) false porthi)
  /-- A successful PIPE_OPEN_PACK (42_pipe_marshalling.md R156). -/
  | packed (pt : PacketTable) : OpEnd s .pipeOpenPack ((s.setPt pt).finish 0xA false false)

theorem encodeOp_opEnd (s : State) : OpEnd s .encode (encodeOp Config.spec s) := by
  rcases encodeOp_cases Config.spec s with ⟨e, -, h⟩ | ⟨-, m, x, -, -, h⟩ <;> rw [h]
  · exact .encodeFailed e
  · exact .encoded _ _ _

theorem decodeFrame_opEnd (s : State) : OpEnd s .decode (decodeFrame Config.spec s) := by
  rcases decodeFrame_cases Config.spec s _ _ rfl rfl with
    ⟨e, -, h⟩ | ⟨-, ⟨-, h⟩ | ⟨-, ⟨e, -, h⟩ | ⟨rs, -, h⟩⟩⟩ <;> rw [h]
  · exact .decodeFailed s.crc e
  · exact .decodeFailed _ _
  · exact .decodeFailed _ _
  · exact .decoded _ _ _ _ _ _

theorem crcOp_opEnd (s : State) : OpEnd s .crc (crcOp Config.spec s) := by
  rcases crcOp_cases Config.spec s with ⟨-, h⟩ | ⟨x, -, -, h⟩ <;> rw [h]
  · exact .raised .crc _
  · exact .crcDone _ _

theorem classifyOp_opEnd (s : State) : OpEnd s .cmdClassify (classifyOp Config.spec s) := by
  rcases classifyOp_cases Config.spec s with ⟨-, h⟩ | ⟨code, t, -, -, h⟩ <;> rw [h]
  · exact .raised .cmdClassify _
  · exact .threeResults .cmdClassify _ _ _ false (by simp) (by simp)

/-- CMD_MAKE_GET and CMD_MAKE_SET, with their own code. -/
theorem makeRegOp_opEnd (i : Instr) (classBits : Half) (s : State) (hi : i ∈ [.cmdMakeGet, .cmdMakeSet]) :
    OpEnd s i (makeRegOp (opCode i) classBits s) := by
  rcases makeRegOp_cases (opCode i) classBits s with ⟨-, h⟩ | ⟨r, -, h⟩ <;> rw [h]
  · exact .raised i _
  · exact .oneResult i _ (List.mem_of_mem_take (i := 2) hi)

theorem makeEventOp_opEnd (s : State) : OpEnd s .cmdMakeEvent (makeEventOp Config.spec s) := by
  rcases makeEventOp_cases Config.spec s with ⟨-, h⟩ | ⟨e, -, h⟩ <;> rw [h]
  · exact .raised .cmdMakeEvent _
  · exact .oneResult .cmdMakeEvent _ (by simp)

theorem pipePackOp_opEnd (s : State) : OpEnd s .pipeCmdPack (pipePackOp Config.spec s) := by
  rcases pipePackOp_cases Config.spec s with ⟨-, h⟩ | ⟨port, flags, -, -, h⟩ <;> rw [h]
  · exact .raised .pipeCmdPack _
  · exact .oneResult .pipeCmdPack _ (by simp)

theorem pipeUnpackOp_opEnd (s : State) : OpEnd s .pipeCmdUnpack (pipeUnpackOp Config.spec s) := by
  rcases pipeUnpackOp_cases Config.spec s with ⟨-, h⟩ | ⟨w, -, h⟩ <;> rw [h]
  · exact .raised .pipeCmdUnpack _
  · exact .threeResults .pipeCmdUnpack _ _ _ false (by simp) (by simp)

theorem openPackOp_opEnd (s : State) : OpEnd s .pipeOpenPack (openPackOp Config.spec s) := by
  rcases openPackOp_cases Config.spec s with ⟨-, h⟩ | ⟨port, k, -, -, h⟩ <;> rw [h]
  · exact .raised .pipeOpenPack _
  · exact .packed _

theorem openUnpackOp_opEnd (s : State) : OpEnd s .pipeOpenUnpack (openUnpackOp Config.spec s) := by
  rcases openUnpackOp_cases Config.spec s with
    ⟨-, h⟩ | ⟨k, -, -, h⟩ | ⟨k, d, port, r, -, -, -, -, -, h⟩ <;> rw [h]
  · exact .raised .pipeOpenUnpack _
  · exact .raised .pipeOpenUnpack _
  · exact .threeResults .pipeOpenUnpack _ _ _ _ (by simp) (fun _ => rfl)

/-- Every operation of the unit ends in one of these ways. -/
theorem exec_opEnd {i : Instr} {s t : State} (hi : i.format = .op4) (h : exec i s = .next t) : OpEnd s i t := by
  cases i <;> cases h
  case nop => exact .nop
  case encode => exact encodeOp_opEnd s
  case decode => exact decodeFrame_opEnd s
  case crc => exact crcOp_opEnd s
  case cmdClassify => exact classifyOp_opEnd s
  case cmdMakeGet => exact makeRegOp_opEnd .cmdMakeGet _ s (by simp)
  case cmdMakeSet => exact makeRegOp_opEnd .cmdMakeSet _ s (by simp)
  case cmdMakeEvent => exact makeEventOp_opEnd s
  case pipeCmdPack => exact pipePackOp_opEnd s
  case pipeCmdUnpack => exact pipeUnpackOp_opEnd s
  case pipeOpenPack => exact openPackOp_opEnd s
  case pipeOpenUnpack => exact openUnpackOp_opEnd s
  case illegalOp op =>
    have hraised := OpEnd.raised (s := s) (.illegalOp op) .illegalOp
    rwa [opCode_illegalOp] at hraised
  all_goals cases hi

/-! ### What every end does -/

/-- Every operation writes `STATUS` whole, with its own code (10_state.md R25). -/
theorem OpEnd.status_eq {s t : State} {i : Instr} (h : OpEnd s i t) :
    ∃ e trail porthi, t.status = statusWord e trail porthi (opCode i) ∧
      (trail = true → i = .decode ∧ e = .ok) ∧ (porthi = true → i = .pipeOpenUnpack ∧ e = .ok) := by
  cases h with
  | nop => exact ⟨.ok, false, false, rfl, by simp, by simp⟩
  | raised _ e => exact ⟨e, false, false, rfl, by simp, by simp⟩
  | encodeFailed e => exact ⟨e, false, false, rfl, by simp, by simp⟩
  | encoded m x len => exact ⟨.ok, false, false, rfl, by simp, by simp⟩
  | decodeFailed x e => exact ⟨e, false, false, rfl, by simp, by simp⟩
  | decoded x d f n pt trail => exact ⟨.ok, trail, false, rfl, fun _ => ⟨rfl, rfl⟩, by simp⟩
  | crcDone x r => exact ⟨.ok, false, false, rfl, by simp, by simp⟩
  | oneResult _ r hi => exact ⟨.ok, false, false, rfl, by simp, by simp⟩
  | threeResults _ r0 r1 r2 porthi hi hporthi =>
    exact ⟨.ok, false, porthi, rfl, by simp, fun h => ⟨hporthi h, rfl⟩⟩
  | packed pt => exact ⟨.ok, false, false, rfl, by simp, by simp⟩

/-- Settles O5: each end of `OpEnd` writes the fields it shows and no other. -/
theorem operationsWriteOnlyWhatTheyName : Obligations.OperationsWriteOnlyWhatTheyName := by
  intro i s t hi h
  cases exec_opEnd hi h with
  | nop => simp
  | raised _ e => simp
  | encodeFailed e => simp
  | encoded m x len => simp
  | decodeFailed x e => simp [decodeFail]
  | decoded x d f n pt trail => simp
  | crcDone x r => simp
  | oneResult _ r hi =>
    simp only [List.mem_cons, List.not_mem_nil, or_false] at hi
    rcases hi with rfl | rfl | rfl | rfl <;> simp
  | threeResults _ r0 r1 r2 porthi hi hporthi =>
    simp only [List.mem_cons, List.not_mem_nil, or_false] at hi
    rcases hi with rfl | rfl | rfl <;> simp
  | packed pt => simp

end Sys2Proof.Machine
end

section
/-! ## Unassigned register numbers (10_state.md R23) -/

namespace Sys2Proof.Machine

theorem ofNumber_eq_none {n : BitVec 8} (h : n = 0x06#8 ∨ n = 0x07#8 ∨ n = 0x0B#8 ∨ 0x10#8 ≤ n) :
    Reg.ofNumber n = none := by
  unfold Reg.ofNumber
  split
  case h_14 => rfl
  all_goals bv_omega

/-- Settles O43: no register stands at such a number, and none of them is `OPREG`'s. -/
theorem unassignedRegisters : Obligations.UnassignedRegisters := by
  intro s q n v h
  have hnone : Reg.ofNumber n = none := ofNumber_eq_none h
  have hopreg : n ≠ 0x0F := fun he => by cases he ▸ hnone
  refine ⟨?read, ?write⟩
  case read => simp only [step_request, perform, State.hostReadReg, hnone]; rfl
  case write => rw [step_request, perform_writeReg_ne _ _ hopreg, State.hostWriteReg, hnone]

end Sys2Proof.Machine
end

section
/-! ## Every step keeps the state legal (10_state.md R24, R32, R33)

A legal state is a legal `FB`, a legal `PT` and a legal `STATUS` (`State.wf_iff`). `OpEnd` gives the `STATUS` of every
operation, and with O5 only ENCODE, DECODE and PIPE_OPEN_PACK are left to show that what they write lies inside the
addresses there are. -/

namespace Sys2Proof.Machine

/-! ### Legal memories -/

/-- The memory is in canonical form and lists only addresses below `n`. -/
def Canonical {w : Nat} (m : Memory w) (n : Nat) : Prop := Memory.wf m = true ∧ Memory.below m n = true

theorem Canonical.poke {w n a : Nat} {m : Memory w} (h : Canonical m n) (v : BitVec w) (ha : a < n) :
    Canonical (Memory.poke m a v) n :=
  ⟨wf_poke m a v h.1, below_poke m v h.2 ha⟩

theorem Canonical.pokeList {w n a : Nat} {m : Memory w} (h : Canonical m n) (vs : List (BitVec w))
    (ha : a + vs.length ≤ n) : Canonical (Memory.pokeList m a vs) n :=
  ⟨wf_pokeList m a vs h.1, below_pokeList m vs h.2 ha⟩

/-- Every field of the packet table is canonical within its 60 entries (R33). -/
structure TableLegal (pt : PacketTable) : Prop where
  si : Canonical pt.si 60
  cmd : Canonical pt.cmd 60
  plen : Canonical pt.plen 60
  payload : Canonical pt.payload (60 * 236)

section
variable {pt : PacketTable} {k : Nat}

theorem TableLegal.writeSI (h : TableLegal pt) (v : Byte) (hk : k < 60) : TableLegal (pt.writeSI k v) :=
  { h with si := h.si.poke v hk }

theorem TableLegal.writeCMD (h : TableLegal pt) (v : Half) (hk : k < 60) : TableLegal (pt.writeCMD k v) :=
  { h with cmd := h.cmd.poke v hk }

theorem TableLegal.writePLEN (h : TableLegal pt) (v : Byte) (hk : k < 60) : TableLegal (pt.writePLEN k v) :=
  { h with plen := h.plen.poke v hk }

/-- A write inside the 236 payload bytes of an entry stays below the end of the table. -/
theorem TableLegal.writePayload (h : TableLegal pt) (hk : k < 60) {j : Nat} {bs : List Byte}
    (hj : j + bs.length ≤ 236) : TableLegal (pt.writePayload Config.spec k j bs) :=
  { h with payload := h.payload.pokeList bs (by simp only [payloadKey, spec_maxPayload]; omega) }

end

theorem State.wf_iff {s : State} :
    s.wf = true ↔ Canonical s.fb 252 ∧ TableLegal s.pt ∧ statusLegal s.status = true := by
  simp only [State.wf, Bool.and_eq_true]
  constructor
  · rintro ⟨⟨⟨⟨⟨hfb, hsi⟩, hcmd⟩, hplen⟩, hpayload⟩, hstatus⟩
    exact ⟨hfb, ⟨hsi, hcmd, hplen, hpayload⟩, hstatus⟩
  · rintro ⟨hfb, ⟨hsi, hcmd, hplen, hpayload⟩, hstatus⟩
    exact ⟨⟨⟨⟨⟨hfb, hsi⟩, hcmd⟩, hplen⟩, hpayload⟩, hstatus⟩

/-! ### `STATUS` -/

/-- Flags set only as R24 allows make a legal `STATUS`. -/
theorem statusLegal_statusWord {e : ErrCode} {trail porthi : Bool} {op : BitVec 4}
    (htrail : trail = true → op = 0x2 ∧ e = .ok) (hporthi : porthi = true → op = 0xB ∧ e = .ok) :
    statusLegal (statusWord e trail porthi op) = true := by
  simp only [statusLegal, statusWord_reservedLow, statusWord_reservedHigh, statusWord_err, statusWord_lastop,
    statusWord_trail, statusWord_porthi, Bool.and_eq_true]
  refine ⟨⟨⟨⟨rfl, rfl⟩, decide_eq_true e.code_le_ten⟩, ?trailBit⟩, ?porthiBit⟩
  case trailBit =>
    cases trail with
    | false => rfl
    | true => obtain ⟨rfl, rfl⟩ := htrail rfl; rfl
  case porthiBit =>
    cases porthi with
    | false => rfl
    | true => obtain ⟨rfl, rfl⟩ := hporthi rfl; rfl

theorem OpEnd.statusLegal {s t : State} {i : Instr} (h : OpEnd s i t) : statusLegal t.status = true := by
  obtain ⟨e, trail, porthi, hstatus, htrail, hporthi⟩ := h.status_eq
  rw [hstatus]
  exact statusLegal_statusWord (fun h => ⟨congrArg opCode (htrail h).1, (htrail h).2⟩)
    (fun h => ⟨congrArg opCode (hporthi h).1, (hporthi h).2⟩)

/-! ### What ENCODE writes -/

theorem encodePrefix_canonical {s : State} {n j : Nat} (h : Canonical s.fb 252) (hj : j ≤ n)
    (hend : recordsEnd Config.spec s n ≤ 252) : Canonical (encodePrefix s n j) 252 := by
  induction j with
  | zero =>
    exact ((h.poke _ (by decide)).poke _ (by decide)).pokeList _ (by rw [leBytes_length]; decide)
  | succ j ih =>
    rw [encodePrefix_succ]
    exact (ih (by omega)).pokeList _ ((recordBytes_end_le s hj).trans hend)

theorem encodeOp_fb_canonical {s : State} (h : Canonical s.fb 252) :
    Canonical (encodeOp Config.spec s).fb 252 := by
  rcases encodeOp_cases Config.spec s with ⟨e, -, ht⟩ | ⟨hnone, m, x, rfl, -, ht⟩ <;> rw [ht]
  · exact h
  · obtain ⟨-, -, -, hsize⟩ := encodeCheck_eq_none.1 hnone
    have hend : recordsEnd Config.spec s s.pcount.toNat ≤ 252 := by
      simp only [recordsSize, spec_hdrBytes, spec_maxFrameData] at hsize; omega
    exact (encodePrefix_canonical h le_rfl hend).pokeList _ (by rw [leBytes_length]; decide)

/-! ### What DECODE writes -/

/-- The records fit the packet table: at most 60 of them, each payload at most 236 bytes. -/
def RecordsFit (rs : List Rec) : Prop := rs.length ≤ 60 ∧ ∀ r ∈ rs, r.payload.length ≤ 236

/-- The walk accepts only records that fit: it counts them, and a payload ends inside the record area (R118). -/
theorem walkRecords_fit {s : State} {stop fuel p : Nat} {acc rs : List Rec} (hp : 12 ≤ p) (hstop : stop ≤ 252)
    (hacc : RecordsFit acc) (h : walkRecords Config.spec s stop fuel p acc = .ok rs) : RecordsFit rs := by
  induction fuel generalizing p acc with
  | zero => cases h; exact hacc
  | succ fuel ih =>
    rw [walkRecords_spec] at h
    split at h
    · split at h
      · cases h
      · next hover =>
        split at h
        · cases h
        · next hfull =>
          obtain ⟨hlen, hpayload⟩ := hacc
          have hrec : (recordAt Config.spec s p).payload.length ≤ 236 := by
            simp only [recordAt, fbRange_length]; omega
          refine ih (by omega) ⟨?_, ?_⟩ h
          · rw [List.length_append, List.length_singleton]; omega
          · simpa [or_imp, forall_and] using ⟨hpayload, hrec⟩
    · cases h; exact hacc

theorem commitRecords_legal {k : Nat} {rs : List Rec} {pt : PacketTable} (h : TableLegal pt)
    (hk : k + rs.length ≤ 60) (hrs : ∀ r ∈ rs, r.payload.length ≤ 236) :
    TableLegal (commitRecords Config.spec k rs pt) := by
  induction rs generalizing k pt with
  | nil => exact h
  | cons r rs ih =>
    rw [List.length_cons] at hk
    rw [List.forall_mem_cons] at hrs
    have hlt : k < 60 := by omega
    exact ih ((((h.writeSI _ hlt).writeCMD _ hlt).writePLEN _ hlt).writePayload hlt (by omega)) (by omega) hrs.2

theorem decodeFrame_pt_legal {s : State} (h : TableLegal s.pt) : TableLegal (decodeFrame Config.spec s).pt := by
  rcases decodeFrame_cases Config.spec s _ _ rfl rfl with
    ⟨e, -, ht⟩ | ⟨hnone, ⟨-, ht⟩ | ⟨-, ⟨e, -, ht⟩ | ⟨rs, hwalk, ht⟩⟩⟩ <;> rw [ht]
  case inr.inr.inr =>
    obtain ⟨hlen, -, -, hstop, -⟩ := decodeCheck_eq_none.1 hnone
    obtain ⟨hcount, hpayload⟩ := walkRecords_fit le_rfl (hstop.trans hlen) ⟨by simp, by simp⟩ hwalk
    exact commitRecords_legal h (by omega) hpayload
  all_goals exact h

/-! ### What PIPE_OPEN_PACK writes -/

theorem openPackOp_pt_legal {s : State} (h : TableLegal s.pt) : TableLegal (openPackOp Config.spec s).pt := by
  rcases openPackOp_cases Config.spec s with ⟨-, ht⟩ | ⟨port, k, -, hk, ht⟩ <;> rw [ht]
  · exact h
  · obtain ⟨rfl, hlt⟩ := entryOperand_eq_some.1 hk
    exact (h.writePayload hlt (by rw [openPayload_length]; decide)).writePLEN _ hlt

/-! ### Instructions, host accesses, steps -/

/-- Every operation of the unit ends in a legal state: its `STATUS` is legal whatever it was. -/
theorem exec_op_keeps_wf {i : Instr} {s t : State} (hi : i.format = .op4) (hs : s.wf = true)
    (h : exec i s = .next t) : t.wf = true := by
  obtain ⟨hfb, hpt, -⟩ := State.wf_iff.1 hs
  obtain ⟨-, -, hfbEq, -, hptEq, -⟩ := operationsWriteOnlyWhatTheyName i s t hi h
  refine State.wf_iff.2 ⟨?fb, ?pt, (exec_opEnd hi h).statusLegal⟩
  case fb =>
    by_cases hencode : i = .encode
    · subst hencode; cases h; exact encodeOp_fb_canonical hfb
    · rw [(hfbEq hencode).2]; exact hfb
  case pt =>
    by_cases hdecode : i = .decode
    · subst hdecode; cases h; exact decodeFrame_pt_legal hpt
    · by_cases hpack : i = .pipeOpenPack
      · subst hpack; cases h; exact openPackOp_pt_legal hpt
      · rw [hptEq hdecode hpack]; exact hpt

/-- A wire-encoding row runs an operation of the unit on the state with the word in `ARG0` (log 7). -/
theorem exec_wire {i : Instr} (hi : i.format ≠ .op4) :
    ∃ j w, j.format = .op4 ∧ ∀ s, exec i s = exec j (s.setArg0 w) := by
  cases i
  case pipeDataCommandWord => exact ⟨.pipeCmdUnpack, _, rfl, fun _ => rfl⟩
  case serviceCommandEvent | serviceCommandSetReg | serviceCommandGetReg | serviceCommandOther0 |
      serviceCommandOther2 | serviceCommandOther3 => exact ⟨.cmdClassify, _, rfl, fun _ => rfl⟩
  all_goals exact absurd rfl hi

theorem exec_keeps_wf {i : Instr} {s t : State} (hs : s.wf = true) (h : exec i s = .next t) : t.wf = true := by
  by_cases hi : i.format = .op4
  · exact exec_op_keeps_wf hi hs h
  · obtain ⟨j, w, hj, heq⟩ := exec_wire hi
    exact exec_op_keeps_wf (s := s.setArg0 w) hj hs (heq s ▸ h)

theorem hostWriteReg_wf (s : State) (n : BitVec 8) (v : Word) : (s.hostWriteReg n v).wf = s.wf := by
  unfold State.hostWriteReg
  cases Reg.ofNumber n with
  | none => rfl
  | some r => cases r <;> rfl

theorem hostWriteFB_keeps_wf {s : State} (hs : s.wf = true) (a : Nat) (b : Word) :
    (s.hostWriteFB Config.spec a b).wf = true := by
  obtain ⟨hfb, hpt, hstatus⟩ := State.wf_iff.1 hs
  unfold State.hostWriteFB
  split
  · next ha => exact State.wf_iff.2 ⟨hfb.poke _ ha, hpt, hstatus⟩
  · exact hs

theorem hostWritePT_keeps_wf {s : State} (hs : s.wf = true) (k : Nat) (f : PTField) (v : Word) :
    (s.hostWritePT Config.spec k f v).wf = true := by
  obtain ⟨hfb, hpt, hstatus⟩ := State.wf_iff.1 hs
  unfold State.hostWritePT
  split
  · next hk =>
    cases f with
    | si => exact State.wf_iff.2 ⟨hfb, hpt.writeSI _ hk, hstatus⟩
    | cmd => exact State.wf_iff.2 ⟨hfb, hpt.writeCMD _ hk, hstatus⟩
    | plen => exact State.wf_iff.2 ⟨hfb, hpt.writePLEN _ hk, hstatus⟩
  · exact hs

theorem hostWritePTByte_keeps_wf {s : State} (hs : s.wf = true) (k j : Nat) (b : Byte) :
    (s.hostWritePTByte Config.spec k j b).wf = true := by
  obtain ⟨hfb, hpt, hstatus⟩ := State.wf_iff.1 hs
  unfold State.hostWritePTByte
  split
  · next hkj => exact State.wf_iff.2 ⟨hfb, hpt.writePayload hkj.1 hkj.2, hstatus⟩
  · exact hs

theorem resetUnit_wf (s : State) : s.resetUnit.wf = true :=
  show State.reset.wf = true by decide

/-- Every request keeps the state legal. -/
theorem perform_keeps_wf {a : HostAccess} {s t : State} (hs : s.wf = true)
    (h : perform Config.spec exec a s = .next t) : t.wf = true := by
  cases a with
  | readReg | readFB | readPT | readPTByte => cases h; exact hs
  | writeReg n v =>
    by_cases hn : n = 0x0F
    · subst hn; rw [perform_opreg] at h; exact exec_keeps_wf hs h
    · rw [perform_writeReg_ne _ _ hn] at h; cases h
      rw [hostWriteReg_wf]; exact hs
  | writeFB a b => cases h; exact hostWriteFB_keeps_wf hs a b
  | writePT k f v => cases h; exact hostWritePT_keeps_wf hs k f v
  | writePTByte k j b => cases h; exact hostWritePTByte_keeps_wf hs k j b
  | reset => cases h; exact resetUnit_wf s
  | wireCommand w => exact exec_keeps_wf (i := decodeServiceCommand w) hs h
  | wirePipe w => exact exec_keeps_wf (i := decodePipeWord w) hs h

/-- Settles O50: an idle step changes nothing, and any other performs one request. -/
theorem stepKeepsTheStateLegal : Obligations.StepKeepsTheStateLegal := by
  intro s t hs h
  rcases performNext_cases Config.spec exec s with ⟨-, hidle⟩ | ⟨a, q, -, hstep⟩
  · rw [step, hidle] at h; cases h; exact hs
  · rw [step, hstep] at h; exact perform_keeps_wf (s := s.setHostq q) hs h

end Sys2Proof.Machine
end

section
/-! ## What ENCODE reads (10_state.md R34)

ENCODE reads `PCOUNT`, `FFLAGS`, `DEVID` and the packets below `PCOUNT` (`SamePackets`). Two states alike in these get
the same end, and the frames written agree byte for byte even where the buffers differ, because ENCODE writes every byte
of the frame and its CRC covers nothing else (`encodeOp_samePackets`). -/

namespace Sys2Proof.Machine

/-- `s'` has the operands of ENCODE that `s` has. -/
structure SamePackets (s s' : State) : Prop where
  pcount : s'.pcount = s.pcount
  fflags : s'.fflags = s.fflags
  devid : s'.devid = s.devid
  si : ∀ k < s.pcount.toNat, s'.ptSI k = s.ptSI k
  cmd : ∀ k < s.pcount.toNat, s'.ptCMD k = s.ptCMD k
  plen : ∀ k < s.pcount.toNat, s'.ptPLEN k = s.ptPLEN k
  payload : ∀ k < s.pcount.toNat, ∀ j < (s.ptPLEN k).toNat,
    s'.ptByte Config.spec k j = s.ptByte Config.spec k j

/-- Both memories list every address from `lo` up to `hi`, with the same value. -/
def WrittenAlike (m m' : Memory 8) (lo hi : Nat) : Prop :=
  ∀ a, lo ≤ a → a < hi → ∃ v, Memory.peek m a = some v ∧ Memory.peek m' a = some v

/-- What has been written reads the same in any state. -/
theorem fbByte_eq_of_peek {s : State} {a : Nat} {v : Byte} (h : Memory.peek s.fb a = some v) : s.fbByte a = v := by
  rw [State.fbByte, h, Option.getD_some]

theorem WrittenAlike.fbRange_eq {s s' : State} {lo hi a n : Nat} (h : WrittenAlike s.fb s'.fb lo hi) (hlo : lo ≤ a)
    (hhi : a + n ≤ hi) : s'.fbRange a n = s.fbRange a n := by
  refine List.map_congr_left fun i hi => ?_
  have hin := List.mem_range.1 hi
  obtain ⟨v, hv, hv'⟩ := h (a + i) (by omega) (by omega)
  rw [fbByte_eq_of_peek hv, fbByte_eq_of_peek hv']

/-- The same bytes written just below extend the agreement downwards. -/
theorem WrittenAlike.pokeList {m m' : Memory 8} {lo hi : Nat} {vs : List Byte} (h : WrittenAlike m m' lo hi)
    (hvs : vs.length = lo) : WrittenAlike (Memory.pokeList m 0 vs) (Memory.pokeList m' 0 vs) 0 hi := by
  subst hvs
  intro a _ hhi
  by_cases ha : a < vs.length
  · have hin (m : Memory 8) : Memory.peek (Memory.pokeList m 0 vs) a = some vs[a] := by
      simpa using peek_pokeList_inside (a := 0) m vs ha
    exact ⟨vs[a], hin m, hin m'⟩
  · rw [peek_pokeList_outside _ _ (by omega), peek_pokeList_outside _ _ (by omega)]
    exact h a (by omega) hhi

namespace SamePackets

variable {s s' : State} (h : SamePackets s s')
include h

theorem recordOff_eq {k : Nat} (hk : k ≤ s.pcount.toNat) : recordOff Config.spec s' k = recordOff Config.spec s k := by
  induction k with
  | zero => rfl
  | succ k ih => rw [recordOff, recordOff, ih (by omega), h.plen k hk]

theorem recordsEnd_eq (hn : s.pcount.toNat ≠ 0) :
    recordsEnd Config.spec s' s.pcount.toNat = recordsEnd Config.spec s s.pcount.toNat := by
  rw [recordsEnd, recordsEnd, h.recordOff_eq (by omega), h.plen _ (by omega)]

theorem recordsSize_eq (hn : s.pcount.toNat ≠ 0) :
    recordsSize Config.spec s' s.pcount.toNat = recordsSize Config.spec s s.pcount.toNat := by
  rw [recordsSize, recordsSize, h.recordsEnd_eq hn]

theorem encodeCheck_eq : encodeCheck Config.spec s' = encodeCheck Config.spec s := by
  rw [encodeCheck_spec, encodeCheck_spec, h.pcount]
  by_cases hn : s.pcount.toNat = 0
  · simp only [hn, if_true]
  · have hany : ((List.range s.pcount.toNat).any fun k => decide (236 < (s'.ptPLEN k).toNat)) =
        (List.range s.pcount.toNat).any fun k => decide (236 < (s.ptPLEN k).toNat) := by
      rw [Bool.eq_iff_iff]; simp only [List.any_eq_true, List.mem_range]
      exact exists_congr fun k => and_congr_right fun hk => by rw [h.plen k hk]
    rw [hany, h.recordsSize_eq hn]

theorem recordBytes_eq {k : Nat} (hk : k < s.pcount.toNat) :
    recordBytes Config.spec s' s.pcount.toNat k = recordBytes Config.spec s s.pcount.toNat k := by
  have hpayload : s'.ptPayload Config.spec k (s.ptPLEN k).toNat = s.ptPayload Config.spec k (s.ptPLEN k).toNat :=
    List.map_congr_left fun j hj => h.payload k hk j (List.mem_range.1 hj)
  simp only [recordBytes, h.plen k hk, h.si k hk, h.cmd k hk, hpayload, h.recordOff_eq hk,
    h.recordOff_eq (Nat.le_of_lt hk)]

/-- From the same buffer ENCODE makes the same buffer. -/
theorem encodeBody_eq (hn : s.pcount.toNat ≠ 0) (hfb : s'.fb = s.fb) :
    encodeBody Config.spec s' s.pcount.toNat = encodeBody Config.spec s s.pcount.toNat := by
  have hprefix : ∀ j ≤ s.pcount.toNat, encodePrefix s' s.pcount.toNat j = encodePrefix s s.pcount.toNat j := by
    intro j hj
    induction j with
    | zero => simp only [encodePrefix, List.range_zero, List.foldl_nil, hfb, h.recordsSize_eq hn, h.fflags, h.devid]
    | succ j ih =>
      rw [encodePrefix_succ, encodePrefix_succ, ih (by omega), h.recordOff_eq (by omega), h.recordBytes_eq hj]
  exact hprefix _ le_rfl

/-- From any two buffers ENCODE makes buffers alike in the whole frame after the CRC field. -/
theorem encodeBody_writtenAlike (hn : s.pcount.toNat ≠ 0) :
    WrittenAlike (encodeBody Config.spec s s.pcount.toNat) (encodeBody Config.spec s' s.pcount.toNat) 2
      (recordsEnd Config.spec s s.pcount.toNat) := by
  intro a hlo hhi
  obtain ⟨h2, h3, h4⟩ := peek_encodeBody_header s s.pcount.toNat
  obtain ⟨h2', h3', h4'⟩ := peek_encodeBody_header s' s.pcount.toNat
  by_cases h12 : 12 ≤ a
  · obtain ⟨k, i, hk, hi, rfl⟩ := exists_record s h12 hhi (by omega)
    refine ⟨_, peek_encodeBody_record s hk hi, ?_⟩
    have hrec := peek_encodeBody_record s' hk (i := i) (by rw [h.recordBytes_eq hk]; exact hi)
    simpa only [h.recordOff_eq (Nat.le_of_lt hk), h.recordBytes_eq hk] using hrec
  · obtain rfl | rfl | ⟨i, hi, rfl⟩ : a = 2 ∨ a = 3 ∨ ∃ i < 8, a = 4 + i := by
      by_cases ha : a < 4
      · omega
      · exact .inr (.inr ⟨a - 4, by omega, by omega⟩)
    · exact ⟨_, h2, by rw [h2', h.recordsSize_eq hn]⟩
    · exact ⟨_, h3, by rw [h3', h.fflags]⟩
    · exact ⟨_, h4 i hi, by rw [h4' i hi, h.devid]⟩

/-- So the CRC of the frame is the same. -/
theorem crc16_encodeBody_eq (hn : s.pcount.toNat ≠ 0) :
    crc16 Config.spec ((s'.setFb (encodeBody Config.spec s' s.pcount.toNat)).fbRange 2
      (recordsEnd Config.spec s s.pcount.toNat - 2)) =
    crc16 Config.spec ((s.setFb (encodeBody Config.spec s s.pcount.toNat)).fbRange 2
      (recordsEnd Config.spec s s.pcount.toNat - 2)) := by
  have hoff := recordOff_ge s (s.pcount.toNat - 1)
  have hend : 2 + (recordsEnd Config.spec s s.pcount.toNat - 2) ≤ recordsEnd Config.spec s s.pcount.toNat := by
    simp only [recordsEnd]; omega
  exact congrArg _ (WrittenAlike.fbRange_eq (s := s.setFb _) (s' := s'.setFb _) (h.encodeBody_writtenAlike hn) le_rfl
    hend)

/-- ENCODE of the same packets ends in the same way: with the same error, or with frames alike in every byte. -/
theorem encodeOp_eq :
    (∃ e, encodeOp Config.spec s = (s.setFlen 0).raiseError 0x1 e ∧
      encodeOp Config.spec s' = (s'.setFlen 0).raiseError 0x1 e) ∨
    (∃ m m' x len,
      encodeOp Config.spec s = (((s.setFb m).setCrc x).setFlen len).finish 0x1 false false ∧
      encodeOp Config.spec s' = (((s'.setFb m').setCrc x).setFlen len).finish 0x1 false false ∧
      WrittenAlike m m' 0 len.toNat ∧ (s'.fb = s.fb → m' = m)) := by
  rcases encodeOp_cases Config.spec s with ⟨e, he, ht⟩ | ⟨hnone, m, x, rfl, hx, ht⟩
  case inl =>
    refine .inl ⟨e, ht, ?_⟩
    rw [encodeOp, h.encodeCheck_eq, he]
  case inr =>
    obtain ⟨-, hn, -⟩ := encodeCheck_eq_none.1 hnone
    have hx' := hx.trans (h.crc16_encodeBody_eq hn).symm
    have hframe := (h.encodeBody_writtenAlike hn).pokeList (leBytes_length 2 x.toNat)
    refine .inr ⟨_, Memory.pokeList (encodeBody Config.spec s' s.pcount.toNat) 0 (leBytes 2 x.toNat), x, _, ht, ?_,
      fun a hlo ha => hframe a hlo (ha.trans_le ?_), fun hfb => by rw [h.encodeBody_eq hn hfb]⟩
    · rw [encodeOp, h.encodeCheck_eq, hnone]
      simp only [h.pcount, h.recordsEnd_eq hn, hx']
      rfl
    · rw [BitVec.toNat_ofNat]; exact Nat.mod_le _ _

end SamePackets

/-- `FB` and `STATUS` are no operands of ENCODE. -/
theorem samePackets_withFbStatus (s : State) (m : Memory 8) (v : Half) :
    SamePackets s { s with fb := m, status := v } :=
  ⟨rfl, rfl, rfl, fun _ _ => rfl, fun _ _ => rfl, fun _ _ => rfl, fun _ _ _ _ => rfl⟩

/-- Settles O13: the two tables are the operands of `SamePackets`, and the buffer ENCODE starts from is the same. -/
theorem encodeReadsOnlyThePackets : Obligations.EncodeReadsOnlyThePackets := by
  intro s t pt ht hagree
  cases ht
  choose hsi hcmd hplen hpayload using hagree
  have hsame : SamePackets s { s with pt := pt } := ⟨rfl, rfl, rfl, hsi, hcmd, hplen, hpayload⟩
  refine congrArg Host.Outcome.next ?_
  rcases hsame.encodeOp_eq with ⟨e, h, h'⟩ | ⟨m, m', x, len, h, h', -, hm⟩
  · rw [h, h']; rfl
  · rw [h, h', hm rfl]; rfl

end Sys2Proof.Machine
end

section
/-! ## What DECODE reads (10_state.md R32)

DECODE reads `FLEN` and `FB[0..FLEN)` (`SameFrame`): every check of a length comes before the bytes it
admits are read. -/

namespace Sys2Proof.Machine

/-! ### The ends of DECODE after its length checks, one equation each (40_frame_codec.md R117 to R119) -/

section
variable {c : Config} {s : State} {stop : Nat} {x : Half} (hcheck : decodeCheck c s = none)
  (hstop : stop = c.hdrBytes + (s.fbByte 2).toNat) (hx : x = crc16 c (s.fbRange 2 (stop - 2)))
include hcheck hstop hx

theorem decodeFrame_of_mismatch (hne : x ≠ BitVec.ofNat 16 (leValue (s.fbRange 0 2))) :
    decodeFrame c s = decodeFail (s.setCrc x) .crcMismatch := by
  subst hx hstop
  simp only [decodeFrame, hcheck]
  exact if_pos hne

theorem decodeFrame_of_walk_error {e : ErrCode} (heq : x = BitVec.ofNat 16 (leValue (s.fbRange 0 2)))
    (hwalk : walkRecords c s stop (stop - c.hdrBytes) c.hdrBytes [] = .error e) :
    decodeFrame c s = decodeFail (s.setCrc x) e := by
  subst hx hstop
  simp only [decodeFrame, hcheck, hwalk]
  exact if_neg (not_not_intro heq)

theorem decodeFrame_of_walk_ok {rs : List Rec} (heq : x = BitVec.ofNat 16 (leValue (s.fbRange 0 2)))
    (hwalk : walkRecords c s stop (stop - c.hdrBytes) c.hdrBytes [] = .ok rs) :
    decodeFrame c s = (((((s.setCrc x).setDevid (BitVec.ofNat 64 (leValue (s.fbRange 4 8)))).setFflags
      (s.fbByte 3)).setPt (commitRecords c 0 rs s.pt)).setPcount (BitVec.ofNat 8 rs.length)).finish 0x2
        (trailFlag s.flen.toNat stop) false := by
  subst hx hstop
  simp only [decodeFrame, hcheck, hwalk]
  exact if_neg (not_not_intro heq)

end

/-! ### Two states with the same received bytes -/

/-- `s'` has the operands of DECODE that `s` has: the received bytes. -/
structure SameFrame (s s' : State) : Prop where
  flen : s'.flen = s.flen
  fb : ∀ a < s.flen.toNat, s'.fbByte a = s.fbByte a

namespace SameFrame

variable {s s' : State} (h : SameFrame s s')
include h

theorem fbRange_eq {a n : Nat} (han : a + n ≤ s.flen.toNat) : s'.fbRange a n = s.fbRange a n :=
  List.map_congr_left fun i hi => h.fb (a + i) (by have := List.mem_range.1 hi; omega)

theorem frameOf_eq : frameOf s' = frameOf s := by
  rw [frameOf, frameOf, h.flen, h.fbRange_eq (by omega)]

theorem decodeCheck_eq : decodeCheck Config.spec s' = decodeCheck Config.spec s := by
  rw [decodeCheck_spec, decodeCheck_spec, h.flen]
  by_cases hshort : s.flen.toNat < 12
  · simp only [hshort, if_true]
  · rw [h.fb 2 (by omega)]

theorem recordAt_eq {p : Nat} (hp : p + 4 + (s.fbByte p).toNat ≤ s.flen.toNat) :
    recordAt Config.spec s' p = recordAt Config.spec s p := by
  have hplen : s'.fbByte p = s.fbByte p := h.fb p (by omega)
  have hsi : s'.fbByte (p + 1) = s.fbByte (p + 1) := h.fb (p + 1) (by omega)
  have hcmd : s'.fbRange (p + 2) 2 = s.fbRange (p + 2) 2 := h.fbRange_eq (by omega)
  have hpayload : s'.fbRange (p + 4) (s.fbByte p).toNat = s.fbRange (p + 4) (s.fbByte p).toNat := h.fbRange_eq hp
  simp only [recordAt, spec_recHdrBytes, hplen, hsi, hcmd, hpayload]

theorem walkRecords_eq {stop fuel p : Nat} {acc : List Rec} (hstop : stop ≤ s.flen.toNat) :
    walkRecords Config.spec s' stop fuel p acc = walkRecords Config.spec s stop fuel p acc := by
  induction fuel generalizing p acc with
  | zero => rfl
  | succ fuel ih =>
    rw [walkRecords_spec, walkRecords_spec]
    by_cases hp : p < stop
    · rw [if_pos hp, if_pos hp, h.fb p (by omega)]
      by_cases hover : stop < p + 4 + (s.fbByte p).toNat
      · rw [if_pos hover, if_pos hover]
      · rw [if_neg hover, if_neg hover, ih, h.recordAt_eq (by omega)]
    · rw [if_neg hp, if_neg hp]

/-- DECODE of the same received bytes ends in the same way, with the same values in the fields it writes. -/
theorem decodeFrame_eq :
    (∃ e, decodeFrame Config.spec s = decodeFail s e ∧ decodeFrame Config.spec s' = decodeFail s' e) ∨
    (∃ x e, decodeFrame Config.spec s = decodeFail (s.setCrc x) e ∧
      decodeFrame Config.spec s' = decodeFail (s'.setCrc x) e) ∨
    (∃ x d f n rs trail,
      decodeFrame Config.spec s = (((((s.setCrc x).setDevid d).setFflags f).setPt
        (commitRecords Config.spec 0 rs s.pt)).setPcount n).finish 0x2 trail false ∧
      decodeFrame Config.spec s' = (((((s'.setCrc x).setDevid d).setFflags f).setPt
        (commitRecords Config.spec 0 rs s'.pt)).setPcount n).finish 0x2 trail false) := by
  cases hcheck : decodeCheck Config.spec s with
  | some e => exact .inl ⟨e, by rw [decodeFrame, hcheck], by rw [decodeFrame, h.decodeCheck_eq, hcheck]⟩
  | none =>
    obtain ⟨-, hhdr, -, hstop, hsize⟩ := decodeCheck_eq_none.1 hcheck
    simp only [spec_hdrBytes, spec_recHdrBytes] at hhdr hstop hsize
    have hbyte2 : s'.fbByte 2 = s.fbByte 2 := h.fb 2 (by omega)
    have hflags : s'.fbByte 3 = s.fbByte 3 := h.fb 3 (by omega)
    have hdevid : s'.fbRange 4 8 = s.fbRange 4 8 := h.fbRange_eq (by omega)
    have hstored : s'.fbRange 0 2 = s.fbRange 0 2 := h.fbRange_eq (by omega)
    obtain ⟨stop, hstopEq⟩ : ∃ stop, stop = 12 + (s.fbByte 2).toNat := ⟨_, rfl⟩
    have hstopEq' : stop = 12 + (s'.fbByte 2).toNat := by rw [hbyte2, hstopEq]
    have hcovered : s'.fbRange 2 (stop - 2) = s.fbRange 2 (stop - 2) := h.fbRange_eq (by omega)
    obtain ⟨x, hx⟩ : ∃ x, x = crc16 Config.spec (s.fbRange 2 (stop - 2)) := ⟨_, rfl⟩
    have hx' : x = crc16 Config.spec (s'.fbRange 2 (stop - 2)) := by rw [hcovered, hx]
    have hcheck' := h.decodeCheck_eq.trans hcheck
    have hwalkEq := h.walkRecords_eq (fuel := stop - 12) (p := 12) (acc := []) (show stop ≤ s.flen.toNat by omega)
    by_cases hcrc : x = BitVec.ofNat 16 (leValue (s.fbRange 0 2))
    case neg =>
      exact .inr (.inl ⟨x, _, decodeFrame_of_mismatch hcheck hstopEq hx hcrc,
        decodeFrame_of_mismatch hcheck' hstopEq' hx' (by rwa [hstored])⟩)
    case pos =>
      have hcrc' : x = BitVec.ofNat 16 (leValue (s'.fbRange 0 2)) := by rwa [hstored]
      cases hwalk : walkRecords Config.spec s stop (stop - 12) 12 [] with
      | error e =>
        exact .inr (.inl ⟨x, e, decodeFrame_of_walk_error hcheck hstopEq hx hcrc hwalk,
          decodeFrame_of_walk_error hcheck' hstopEq' hx' hcrc' (hwalkEq.trans hwalk)⟩)
      | ok rs =>
        have hend' := decodeFrame_of_walk_ok hcheck' hstopEq' hx' hcrc' (hwalkEq.trans hwalk)
        rw [hdevid, hflags, h.flen] at hend'
        exact .inr (.inr ⟨x, _, _, _, rs, _, decodeFrame_of_walk_ok hcheck hstopEq hx hcrc hwalk, hend'⟩)

end SameFrame

end Sys2Proof.Machine
end

section
/-! ## What no operation reads (10_state.md R25, R32)

No operation reads the old `STATUS`, and but for CRC none reads a byte of `FB` from `FLEN` on. ENCODE and DECODE have
their operands in `SamePackets` and `SameFrame`; the other operations read `ARG` registers and `PT` only. -/

namespace Sys2Proof.Machine

/-- The operations that read only `ARG` registers and `PT` do not see `FB` and the old `STATUS`. -/
theorem exec_withFbStatus {i : Instr} {s t : State} (hi : i.format = .op4) (hencode : i ≠ .encode)
    (hdecode : i ≠ .decode) (hcrc : i ≠ .crc) (h : exec i s = .next t) (m : Memory 8) (v : Half) :
    exec i { s with fb := m, status := v } = .next { t with fb := m } := by
  cases i <;> cases h
  case nop => rfl
  case cmdClassify =>
    simp only [exec, execCmdClassify, classifyOp]
    cases checked 16 s.arg0 <;> rfl
  case cmdMakeGet | cmdMakeSet =>
    simp only [exec, execCmdMakeGet, execCmdMakeSet, makeRegOp]
    cases checked 12 s.arg0 <;> rfl
  case cmdMakeEvent =>
    simp only [exec, execCmdMakeEvent, makeEventOp]
    cases checked 8 s.arg0 <;> rfl
  case pipeCmdPack =>
    simp only [exec, execPipeCmdPack, pipePackOp]
    cases checked Config.spec.pipePortBits s.arg1 <;> cases checked 2 s.arg2 <;> rfl
  case pipeCmdUnpack =>
    simp only [exec, execPipeCmdUnpack, pipeUnpackOp]
    cases checked 16 s.arg0 <;> rfl
  case pipeOpenPack =>
    simp only [exec, execPipeOpenPack, openPackOp]
    cases checked Config.spec.pipePortBits s.arg1 <;> cases entryOperand Config.spec s.arg2 <;> rfl
  case pipeOpenUnpack =>
    simp only [exec, execPipeOpenUnpack, openUnpackOp]
    cases entryOperand Config.spec s.arg2 with
    | none => rfl
    | some k =>
      have hplen : State.ptPLEN { s with fb := m, status := v } k = s.ptPLEN k := rfl
      simp only [hplen]
      split <;> rfl
  case illegalOp op => rfl
  case encode => exact absurd rfl hencode
  case decode => exact absurd rfl hdecode
  case crc => exact absurd rfl hcrc
  all_goals cases hi

/-- No operation reads the old `STATUS` (R25). -/
theorem exec_withStatus {i : Instr} (s : State) (hi : i.format = .op4) (v : Half) :
    exec i { s with status := v } = exec i s := by
  by_cases hencode : i = .encode
  · subst hencode
    refine congrArg Host.Outcome.next ?_
    rcases (samePackets_withFbStatus s s.fb v).encodeOp_eq with ⟨e, h, h'⟩ | ⟨m, m', x, len, h, h', -, hm⟩
    · rw [h, h']; rfl
    · rw [h, h', hm rfl]; rfl
  by_cases hdecode : i = .decode
  · subst hdecode
    have hsame : SameFrame s { s with status := v } := ⟨rfl, fun _ _ => rfl⟩
    refine congrArg Host.Outcome.next ?_
    rcases hsame.decodeFrame_eq with ⟨e, h, h'⟩ | ⟨x, e, h, h'⟩ | ⟨x, d, f, n, rs, trail, h, h'⟩ <;>
      rw [h, h'] <;> rfl
  by_cases hcrc : i = .crc
  · subst hcrc
    simp only [exec, execCrc, crcOp]
    cases rangeOperand Config.spec s.arg0 s.arg1 <;> rfl
  obtain ⟨t, ht⟩ : ∃ t, exec i s = .next t := by cases i <;> exact ⟨_, rfl⟩
  rw [ht, exec_withFbStatus hi hencode hdecode hcrc ht s.fb v]
  obtain ⟨-, -, hframe, -⟩ := operationsWriteOnlyWhatTheyName i s t hi ht
  obtain ⟨-, hfb⟩ := hframe hencode
  rw [← hfb]

/-- No operation but ENCODE changes the frame in the buffer. -/
theorem exec_frameOf {i : Instr} {s t : State} (hi : i.format = .op4) (hencode : i ≠ .encode)
    (h : exec i s = .next t) : frameOf t = frameOf s := by
  obtain ⟨-, -, hframe, -, -, -, -, -, -, hepoch, -⟩ := operationsWriteOnlyWhatTheyName i s t hi h
  obtain ⟨hflen, hfb⟩ := hframe hencode
  refine SameFrame.frameOf_eq ⟨hflen, fun a _ => ?_⟩
  rw [State.fbByte, State.fbByte, hfb, hepoch]

/-- Settles O4: the end of the operation gives its `STATUS`, and no operation reads the old one. -/
theorem everyOperationWritesStatusWhole : Obligations.EveryOperationWritesStatusWhole := by
  intro i s t _ hi h
  obtain ⟨e, trail, porthi, hstatus, htrail, hporthi⟩ := (exec_opEnd hi h).status_eq
  have herr (he : e = .ok) : t.err = 0 := by rw [State.err, hstatus, statusWord_err, he]; rfl
  refine ⟨?lastop, ?low, ?high, ?trailBit, ?porthiBit, fun v => (exec_withStatus s hi v).trans h⟩
  case lastop => rw [State.lastop, hstatus, statusWord_lastop]; rfl
  case low => rw [hstatus, statusWord_reservedLow]
  case high => rw [hstatus, statusWord_reservedHigh]
  case trailBit =>
    rw [State.trail, hstatus, statusWord_trail]
    exact fun ht => (htrail ht).imp_right herr
  case porthiBit =>
    rw [State.porthi, hstatus, statusWord_porthi]
    exact fun hp => (hporthi hp).imp_right herr

/-- ENCODE of the same packets into any two buffers. -/
theorem encode_ignores_fb {s t u : State} {m : Memory 8} (ht : exec .encode s = .next t)
    (hu : exec .encode { s with fb := m } = .next u) : u = { t with fb := u.fb } ∧ frameOf u = frameOf t := by
  cases ht
  cases hu
  rcases (samePackets_withFbStatus s m s.status).encodeOp_eq with ⟨e, h, h'⟩ | ⟨m₁, m₂, x, len, h, h', halike, -⟩ <;>
    rw [h, h']
  · exact ⟨rfl, rfl⟩
  · exact ⟨rfl, WrittenAlike.fbRange_eq halike le_rfl (by simp)⟩

/-- Settles O20: ENCODE reads no byte of `FB`, DECODE only those below `FLEN`, and the others neither read `FB` nor
change the frame. -/
theorem staleBytesAreNotRead : Obligations.StaleBytesAreNotRead := by
  intro i s t u m hi hcrc hagree ht hu
  by_cases hencode : i = .encode
  · subst hencode; exact encode_ignores_fb ht hu
  have hsame : SameFrame s { s with fb := m } := ⟨rfl, hagree⟩
  refine ⟨?_, (exec_frameOf hi hencode hu).trans (hsame.frameOf_eq.trans (exec_frameOf hi hencode ht).symm)⟩
  by_cases hdecode : i = .decode
  · subst hdecode
    cases ht
    cases hu
    rcases hsame.decodeFrame_eq with ⟨e, h, h'⟩ | ⟨x, e, h, h'⟩ | ⟨x, d, f, n, rs, trail, h, h'⟩ <;>
      rw [h, h'] <;> rfl
  · have hu' := exec_withFbStatus hi hencode hdecode hcrc ht m s.status
    cases hu.symm.trans hu'
    rfl
end Sys2Proof.Machine
end

section
/-! ## Wire words, decoding and the host accesses behind them (20_memory.md R55, 30_encoding.md R73 to R80, log 7)

Decoding a 16-bit word loses no bit of it (`encodeWord_decodeServiceCommand`, `encodeWord_decodePipeWord`), so a
presented word runs its operation with the very word in `ARG0`. -/

namespace Sys2Proof

/-! ### Every bit of a wire word stands in a field -/

theorem extractLsb'_one_eq_ofBool {n : Nat} (w : BitVec n) (i : Nat) :
    w.extractLsb' i 1 = BitVec.ofBool (w.getLsbD i) := by
  rw [BitVec.getLsbD_eq_extractLsb']
  rcases BitVec.eq_zero_or_eq_one (w.extractLsb' i 1) with h | h <;> rw [h] <;> rfl

/-- The high byte and the low byte of a word (20_memory.md R56). -/
theorem append_bytes (w : Half) : w.extractLsb' 8 8 ++ w.extractLsb' 0 8 = w :=
  (BitVec.extractLsb'_append_extractLsb'_eq_extractLsb' rfl).trans BitVec.extractLsb'_eq_self

/-- A command code of class EVENT: bit 15, counter, event (30_encoding.md R74). -/
theorem append_eventFields (w : Half) :
    BitVec.ofBool (w.getLsbD 15) ++ w.extractLsb' 8 7 ++ w.extractLsb' 0 8 = w := by
  rw [← extractLsb'_one_eq_ofBool, BitVec.extractLsb'_append_extractLsb'_eq_extractLsb' (rfl : 15 = 8 + 7)]
  exact append_bytes w

/-- A command code of the other classes: bits 15 and 14, bits 13:12, register number (30_encoding.md R74). -/
theorem append_registerFields (w : Half) :
    BitVec.ofBool (w.getLsbD 15) ++ BitVec.ofBool (w.getLsbD 14) ++ w.extractLsb' 12 2 ++ w.extractLsb' 0 12 = w := by
  rw [← extractLsb'_one_eq_ofBool, ← extractLsb'_one_eq_ofBool,
    BitVec.extractLsb'_append_extractLsb'_eq_extractLsb' (rfl : 15 = 14 + 1),
    BitVec.extractLsb'_append_extractLsb'_eq_extractLsb' (rfl : 14 = 12 + 2)]
  exact (BitVec.extractLsb'_append_extractLsb'_eq_extractLsb' rfl).trans BitVec.extractLsb'_eq_self

theorem ofBool_false_append_append (x : BitVec 2) :
    BitVec.ofBool false ++ BitVec.ofBool false ++ x = BitVec.ofNat 4 x.toNat := by
  revert x; decide

theorem encodeWord_decodePipeWord (w : Half) : encodeWord (decodePipeWord w) = w := by
  simp only [decodePipeWord, encodeWord]
  rw [BitVec.extractLsb'_append_extractLsb'_eq_extractLsb' (rfl : 7 = 6 + 1),
    BitVec.extractLsb'_append_extractLsb'_eq_extractLsb' (rfl : 6 = 5 + 1)]
  exact (BitVec.extractLsb'_append_extractLsb'_eq_extractLsb' rfl).trans BitVec.extractLsb'_eq_self

/-- Each branch of the decoder fixes the bits that its row's encoding writes as constants. -/
theorem encodeWord_decodeServiceCommand (w : Half) : encodeWord (decodeServiceCommand w) = w := by
  unfold decodeServiceCommand
  split
  case isTrue h15 =>
    have hw := append_eventFields w
    rwa [h15] at hw
  case isFalse h15 =>
    have hw := append_registerFields w
    rw [Bool.not_eq_true] at h15
    rw [h15] at hw
    split
    case isTrue h14 => rwa [h14] at hw
    case isFalse h14 =>
      rw [Bool.not_eq_true] at h14
      rw [h14] at hw
      have row {n : Nat} (hn : (w.extractLsb' 12 2).toNat = n) : BitVec.ofNat 4 n ++ w.extractLsb' 0 12 = w := by
        rwa [ofBool_false_append_append, hn] at hw
      split
      case h_1 hn => exact row hn
      case h_2 hn => exact row hn
      case h_3 hn => exact row hn
      case h_4 hn0 hn1 hn2 =>
        have hlt := (w.extractLsb' 12 2).isLt
        rw [imp_false] at hn0 hn1 hn2
        exact row (n := 3) (by omega)

/-! ### What the decoder reads from the bytes of a request (R80, 20_memory.md R56) -/

/-- A write to `OPREG` selects by its low four bits, whatever stands above them (20_memory.md R51). -/
theorem decode_op4_lowByte (v : Word) :
    decode .op4 [v.extractLsb' 0 8] = .ok (decodeOp (v.extractLsb' 0 4)) :=
  congrArg (fun op => Except.ok (decodeOp op)) (BitVec.extractLsb'_extractLsb'_of_le (by decide))

theorem decode_serviceCommand16_bytes (w : Half) :
    decode .serviceCommand16 [w.extractLsb' 0 8, w.extractLsb' 8 8] = .ok (decodeServiceCommand w) :=
  congrArg (fun x => Except.ok (decodeServiceCommand x)) (append_bytes w)

theorem decode_pipeCommand16_bytes (w : Half) :
    decode .pipeCommand16 [w.extractLsb' 0 8, w.extractLsb' 8 8] = .ok (decodePipeWord w) :=
  congrArg (fun x => Except.ok (decodePipeWord x)) (append_bytes w)

theorem decodeServiceCommand_format (w : Half) : (decodeServiceCommand w).format = .serviceCommand16 := by
  unfold decodeServiceCommand
  split
  · rfl
  · split
    · rfl
    · split <;> rfl

namespace Machine

/-! ### What a presented word runs (log 7) -/

/-- A row of a command code loads its bits into `ARG0` and classifies them. -/
theorem exec_serviceCommand {i : Instr} (hi : i.format = .serviceCommand16) (s : State) :
    exec i s = exec .cmdClassify (s.setArg0 ((encodeWord i).setWidth 64)) := by
  cases i with
  | serviceCommandEvent | serviceCommandSetReg | serviceCommandGetReg => rfl
  | serviceCommandOther0 | serviceCommandOther2 | serviceCommandOther3 => rfl
  | _ => cases hi

theorem exec_decodeServiceCommand (w : Half) (s : State) :
    exec (decodeServiceCommand w) s = exec .cmdClassify (s.setArg0 (w.setWidth 64)) := by
  rw [exec_serviceCommand (decodeServiceCommand_format w), encodeWord_decodeServiceCommand]

theorem exec_decodePipeWord (w : Half) (s : State) :
    exec (decodePipeWord w) s = exec .pipeCmdUnpack (s.setArg0 (w.setWidth 64)) := by
  have hload : exec (decodePipeWord w) s =
      exec .pipeCmdUnpack (s.setArg0 ((encodeWord (decodePipeWord w)).setWidth 64)) := rfl
  rw [hload, encodeWord_decodePipeWord]

/-! ### Two accesses in a row -/

theorem coreRun_one (M : Host.Core) (s : M.State) : M.run 1 s = M.step s := by
  simp only [Host.Core.run]
  cases M.step s <;> rfl

theorem coreRun_succ_of_step (M : Host.Core) {s t : M.State} (h : M.step s = .next t) (n : Nat) :
    M.run (n + 1) s = M.run n t := by
  rw [Host.Core.run, h]

theorem run_one (s : State) : Host.Core.run core 1 s = step s := coreRun_one core s

theorem run_succ_of_step {s t : State} (h : step s = .next t) (n : Nat) :
    Host.Core.run core (n + 1) s = Host.Core.run core n t :=
  coreRun_succ_of_step core h n

/-- The host line `wr ARG0, v` and then a write to `OPREG` (30_encoding.md R84). -/
theorem run_loadArg0_issue (s : State) (v op : Word) (q : List HostAccess) :
    Host.Core.run core 2 { s with hostq := .writeReg 0x08 v :: .writeReg 0x0F op :: q } =
      exec (decodeOp (op.extractLsb' 0 4)) { s with hostq := q, arg0 := v } := by
  have hload : step { s with hostq := .writeReg 0x08 v :: .writeReg 0x0F op :: q } =
      .next { s with hostq := .writeReg 0x0F op :: q, arg0 := v } := by
    rw [step_request, perform_writeReg_ne _ _ (by decide)]; rfl
  rw [run_succ_of_step hload, run_one]
  exact perform_opreg Config.spec exec op { s with hostq := q, arg0 := v }

/-- Settles O40: the decoder loses no bit of the word, so both sides run the same operation with the word in `ARG0`. -/
theorem wireWordsAreTwoHostAccesses : Obligations.WireWordsAreTwoHostAccesses := by
  refine fun s w q => ⟨?command, ?pipe⟩
  case command =>
    rw [run_loadArg0_issue]
    exact exec_decodeServiceCommand w { s with hostq := q }
  case pipe =>
    rw [run_loadArg0_issue]
    exact exec_decodePipeWord w { s with hostq := q }

/-- Settles O41: what `perform` runs for a request is what the decoder reads from the request's bytes. -/
theorem stepRunsTheDecodedInstruction : Obligations.StepRunsTheDecodedInstruction := by
  refine fun s q i => ⟨fun v h => ?opreg, fun w h => ?command, fun w h => ?pipe, rfl⟩
  case opreg =>
    cases (decode_op4_lowByte v).symm.trans h
    rw [step_request, perform_opreg]
  case command =>
    cases (decode_serviceCommand16_bytes w).symm.trans h
    rfl
  case pipe =>
    cases (decode_pipeCommand16_bytes w).symm.trans h
    rfl

end Machine
end Sys2Proof
end

section
/-! ## The register space (20_memory.md R51) -/

namespace Sys2Proof.Machine

theorem Reg.ofNumber_number (r : Reg) : Reg.ofNumber r.number = some r := by
  cases r <;> rfl

theorem Reg.number_of_ofNumber_eq_some {n : BitVec 8} {r : Reg} (h : Reg.ofNumber n = some r) : n = r.number := by
  revert h
  unfold Reg.ofNumber
  split
  case h_14 => exact nofun
  all_goals
    next hn =>
      rintro ⟨⟩
      exact BitVec.eq_of_toNat_eq hn

/-- A register number is a register's own or no register's (10_state.md R22, R23). -/
theorem Reg.number_or_unassigned (n : BitVec 8) :
    (∃ r : Reg, n = r.number) ∨ (Reg.ofNumber n = none ∧ ∀ r : Reg, n ≠ r.number) := by
  cases h : Reg.ofNumber n with
  | some r => exact .inl ⟨r, number_of_ofNumber_eq_some h⟩
  | none =>
    refine .inr ⟨rfl, fun r hr => ?_⟩
    rw [hr, ofNumber_number] at h
    cases h

theorem hostReadReg_number (s : State) (r : Reg) : s.hostReadReg r.number = s.readReg r := by
  rw [State.hostReadReg, Reg.ofNumber_number]

/-- Settles O42: at a register's own number both tables are read off register by register; at any other number every
test of the tables fails. -/
theorem registerSpaceAccess : Obligations.RegisterSpaceAccess := by
  intro s q n v
  rcases Reg.number_or_unassigned n with ⟨r, rfl⟩ | ⟨hnone, hne⟩
  case inl =>
    rw [step_request, step_request, perform, hostReadReg_number]
    refine ⟨?read, ?write⟩
    case read => cases r <;> rfl
    case write => cases r <;> rfl
  case inr =>
    have hnumbers : n ≠ 0x00#8 ∧ n ≠ 0x01#8 ∧ n ≠ 0x02#8 ∧ n ≠ 0x03#8 ∧ n ≠ 0x04#8 ∧ n ≠ 0x05#8 ∧
        n ≠ 0x08#8 ∧ n ≠ 0x09#8 ∧ n ≠ 0x0A#8 ∧ n ≠ 0x0C#8 ∧ n ≠ 0x0D#8 ∧ n ≠ 0x0E#8 ∧ n ≠ 0x0F#8 :=
      ⟨hne .status, hne .crc, hne .flen, hne .pcount, hne .fflags, hne .devid, hne .arg0, hne .arg1, hne .arg2,
        hne .res0, hne .res1, hne .res2, hne .opreg⟩
    refine ⟨?read, ?write⟩
    case read =>
      rw [step_request, perform, State.hostReadReg, hnone]
      simp only [hnumbers, if_false]
      rfl
    case write =>
      rw [step_request, perform_writeReg_ne _ _ (hne .opreg), State.hostWriteReg, hnone]
      simp only [hnumbers, if_false]

end Sys2Proof.Machine
end

section
/-! ## The spaces of `FB` and `PT` (20_memory.md R52, R53)

One fact about a cell read after a write (`peek_poke_getD`) gives what every field of `FB` and `PT` reads as after a
host write; the payload bytes need `payloadKey_inj` besides. -/

namespace Sys2Proof.Machine

/-- Reading after one write, where an unwritten cell reads as `d`. -/
theorem peek_poke_getD {w : Nat} (m : Memory w) (a b : Nat) (v d : BitVec w) :
    (Memory.peek (Memory.poke m a v) b).getD d = if b = a then v else (Memory.peek m b).getD d := by
  rw [peek_poke]
  split <;> rfl

/-! ### What a write of one cell leaves to read -/

section
variable (s : State) (a b k k' : Nat)

theorem fbByte_setFb_poke (v : Byte) :
    (s.setFb (Memory.poke s.fb a v)).fbByte b = if b = a then v else s.fbByte b :=
  peek_poke_getD ..

theorem ptSI_writeSI (v : Byte) :
    (s.setPt (s.pt.writeSI k v)).ptSI k' = if k' = k then v else s.ptSI k' :=
  peek_poke_getD ..

theorem ptCMD_writeCMD (v : Half) :
    (s.setPt (s.pt.writeCMD k v)).ptCMD k' = if k' = k then v else s.ptCMD k' :=
  peek_poke_getD ..

theorem ptPLEN_writePLEN (v : Byte) :
    (s.setPt (s.pt.writePLEN k v)).ptPLEN k' = if k' = k then v else s.ptPLEN k' :=
  peek_poke_getD ..

theorem ptByte_writePayload_byte (c : Config) {j j' : Nat} (hj : j < c.maxPayload) (hj' : j' < c.maxPayload)
    (v : Byte) :
    (s.setPt (s.pt.writePayload c k j [v])).ptByte c k' j' = if k' = k ∧ j' = j then v else s.ptByte c k' j' := by
  simp only [← payloadKey_inj c hj' hj]
  exact peek_poke_getD ..

end

/-! ### A host write to one field of an entry -/

/-- Field `f` of entry `k` takes `v`, truncated to the field's width (R53). -/
def PacketTable.writeField (pt : PacketTable) (k : Nat) (v : Word) : PTField → PacketTable
  | .si => pt.writeSI k (v.setWidth 8)
  | .cmd => pt.writeCMD k (v.setWidth 16)
  | .plen => pt.writePLEN k (v.setWidth 8)

section
variable (s : State) (k k' : Nat) (v : Word) (f : PTField)

theorem ptSI_writeField :
    (s.setPt (s.pt.writeField k v f)).ptSI k' = if f = .si ∧ k' = k then v.setWidth 8 else s.ptSI k' := by
  cases f with
  | si => simpa [PacketTable.writeField] using ptSI_writeSI s k k' (v.setWidth 8)
  | cmd => rfl
  | plen => rfl

theorem ptCMD_writeField :
    (s.setPt (s.pt.writeField k v f)).ptCMD k' = if f = .cmd ∧ k' = k then v.setWidth 16 else s.ptCMD k' := by
  cases f with
  | si => rfl
  | cmd => simpa [PacketTable.writeField] using ptCMD_writeCMD s k k' (v.setWidth 16)
  | plen => rfl

theorem ptPLEN_writeField :
    (s.setPt (s.pt.writeField k v f)).ptPLEN k' = if f = .plen ∧ k' = k then v.setWidth 8 else s.ptPLEN k' := by
  cases f with
  | si => rfl
  | cmd => rfl
  | plen => simpa [PacketTable.writeField] using ptPLEN_writePLEN s k k' (v.setWidth 8)

theorem ptByte_writeField (c : Config) (j : Nat) :
    (s.setPt (s.pt.writeField k v f)).ptByte c k' j = s.ptByte c k' j := by
  cases f <;> rfl

end

/-! ### The accesses in and out of range -/

section
variable {s : State} {a k j : Nat}

theorem hostWriteFB_inside (h : a < 252) (b : Word) :
    s.hostWriteFB Config.spec a b = s.setFb (Memory.poke s.fb a (b.setWidth 8)) :=
  if_pos h

theorem hostWriteFB_outside (h : 252 ≤ a) (b : Word) : s.hostWriteFB Config.spec a b = s :=
  if_neg (not_lt_of_ge h)

theorem hostWritePT_inside (h : k < 60) (f : PTField) (v : Word) :
    s.hostWritePT Config.spec k f v = s.setPt (s.pt.writeField k v f) := by
  cases f <;> exact if_pos h

theorem hostWritePT_outside (h : 60 ≤ k) (f : PTField) (v : Word) : s.hostWritePT Config.spec k f v = s :=
  if_neg (not_lt_of_ge h)

theorem hostWritePTByte_inside (hk : k < 60) (hj : j < 236) (b : Byte) :
    s.hostWritePTByte Config.spec k j b = s.setPt (s.pt.writePayload Config.spec k j [b]) :=
  if_pos ⟨hk, hj⟩

theorem hostWritePTByte_outside (h : 60 ≤ k ∨ 236 ≤ j) (b : Byte) : s.hostWritePTByte Config.spec k j b = s :=
  if_neg fun ⟨hk, hj⟩ => h.elim (not_le_of_gt hk) (not_le_of_gt hj)

end

/-- Settles O44: below 252 a write lists the one cell `a`, which then reads as `b[7:0]`, and no other cell. -/
theorem frameBufferSpaceAccess : Obligations.FrameBufferSpaceAccess := by
  refine fun s q a b => ⟨?read, fun ha => ?inside, fun ha => ?outside⟩
  case read =>
    rw [step_request, perform, State.hostReadFB, apply_ite (BitVec.setWidth 64)]
    rfl
  case inside =>
    refine ⟨_, by rw [step_request, perform, hostWriteFB_inside ha], rfl, ?self, fun a' ha' => ?other⟩
    case self =>
      rw [fbByte_setFb_poke _ a, if_pos rfl, BitVec.setWidth_eq_extractLsb' (by decide)]
    case other =>
      exact (fbByte_setFb_poke ..).trans (if_neg ha')
  case outside =>
    rw [step_request, perform, hostWriteFB_outside ha]

/-- Settles O45: each write is one write of a cell, in the memory of its own field. -/
theorem packetTableSpaceAccess : Obligations.PacketTableSpaceAccess := by
  refine fun s q k j f v b => ⟨?readField, ?readByte, fun hk => ?writeField, fun hk => ?noField,
    fun hk hj => ?writeByte, fun hkj => ?noByte⟩
  case readField =>
    cases f <;> rfl
  case readByte =>
    rw [step_request, perform, State.hostReadPTByte, apply_ite (BitVec.setWidth 64)]
    rfl
  case writeField =>
    refine ⟨_, by rw [step_request, perform, hostWritePT_inside hk], rfl, fun k' => ?_⟩
    exact ⟨ptSI_writeField .., ptCMD_writeField .., ptPLEN_writeField .., ptByte_writeField _ k k' v f Config.spec⟩
  case noField =>
    rw [step_request, perform, hostWritePT_outside hk]
  case writeByte =>
    refine ⟨_, by rw [step_request, perform, hostWritePTByte_inside hk hj], rfl, fun k' j' hj' => ?_⟩
    exact ptByte_writePayload_byte _ k k' Config.spec hj hj' b
  case noByte =>
    rw [step_request, perform, hostWritePTByte_outside hkj]

end Sys2Proof.Machine
end

section
/-! ## Decoding and encoding are inverse (30_encoding.md R74, R76, R80, R81)

A format's bytes carry a 16-bit word (`decode_formatBytes`, `exists_word_of_decode`), so both directions come down to
`decodeWord` and `encodeWord`: `decodeWord_encodeWord` and `encodeWord_decodeWord`. -/

namespace Sys2Proof

/-- What the decoder makes of the word a format's bytes carry; of an operation code only bits 3:0 count (R80). -/
def decodeWord : Format → Half → Instr
  | .op4, w => decodeOp (w.extractLsb' 0 4)
  | .serviceCommand16, w => decodeServiceCommand w
  | .pipeCommand16, w => decodePipeWord w

/-! ### Bytes and words -/

theorem decode_formatBytes (f : Format) (w : Half) (rest : List Byte) :
    decode f (formatBytes f w ++ rest) = .ok (decodeWord f w) := by
  cases f with
  | op4 => exact congrArg (fun op => Except.ok (decodeOp op)) (BitVec.extractLsb'_extractLsb'_of_le (by decide))
  | serviceCommand16 => exact congrArg (fun x => Except.ok (decodeServiceCommand x)) (append_bytes w)
  | pipeCommand16 => exact congrArg (fun x => Except.ok (decodePipeWord x)) (append_bytes w)

/-- The bytes of a 16-bit format, least significant first (20_memory.md R56). -/
theorem bytes_append (hi lo : Byte) :
    [(hi ++ lo).extractLsb' 0 8, (hi ++ lo).extractLsb' 8 8] = [lo, hi] := by
  rw [BitVec.extractLsb'_append_eq_right, BitVec.extractLsb'_append_eq_left]

/-- The decoder answers only on bytes that carry a word. -/
theorem exists_word_of_decode {f : Format} {bs : List Byte} {i : Instr} (h : decode f bs = .ok i) :
    ∃ w, i = decodeWord f w ∧ formatBytes f w = bs.take (if f = .op4 then 1 else 2) := by
  cases f with
  | op4 =>
    match bs, h with
    | b :: _, rfl =>
      have hbyte : (0#8 ++ b).extractLsb' 0 8 = b := BitVec.extractLsb'_append_eq_right
      have hop : (0#8 ++ b).extractLsb' 0 4 = b.extractLsb' 0 4 := BitVec.extractLsb'_append_eq_of_add_le (by decide)
      exact ⟨0#8 ++ b, congrArg decodeOp hop.symm, congrArg (fun x => [x]) hbyte⟩
  | serviceCommand16 =>
    match bs, h with
    | lo :: hi :: _, rfl => exact ⟨hi ++ lo, rfl, bytes_append hi lo⟩
  | pipeCommand16 =>
    match bs, h with
    | lo :: hi :: _, rfl => exact ⟨hi ++ lo, rfl, bytes_append hi lo⟩

/-! ### Operation codes (R80, R81) -/

theorem decodeOp_of_reserved {op : BitVec 4} (h : 0xC#4 ≤ op) : decodeOp op = .illegalOp op := by
  revert op; decide

theorem decodeOp_wellFormed (op : BitVec 4) : (decodeOp op).wellFormed = true := by
  revert op; decide

theorem decodeOp_format (op : BitVec 4) : (decodeOp op).format = .op4 := by
  revert op; decide

theorem encodeWord_decodeOp (op : BitVec 4) : encodeWord (decodeOp op) = 0#12 ++ op := by
  revert op; decide

theorem decodeOp_opCode {i : Instr} (hi : i.format = .op4) (hw : i.wellFormed = true) :
    decodeOp (Machine.opCode i) = i := by
  cases i with
  | nop | encode | decode | crc => rfl
  | cmdClassify | cmdMakeGet | cmdMakeSet | cmdMakeEvent => rfl
  | pipeCmdPack | pipeCmdUnpack | pipeOpenPack | pipeOpenUnpack => rfl
  | illegalOp op =>
    rw [Machine.opCode_illegalOp]
    exact decodeOp_of_reserved (of_decide_eq_true hw)
  | _ => cases hi

/-! ### Command codes (R74) -/

/-- The bits the decoder looks at, in a code put together from its four class bits and twelve more. -/
theorem classFields_append (k : BitVec 4) (r : BitVec 12) :
    (k ++ r : Half).getLsbD 15 = k.getLsbD 3 ∧ (k ++ r : Half).getLsbD 14 = k.getLsbD 2 ∧
      (k ++ r : Half).extractLsb' 12 2 = k.extractLsb' 0 2 ∧ (k ++ r : Half).extractLsb' 0 12 = r :=
  ⟨BitVec.getLsbD_append, BitVec.getLsbD_append, BitVec.extractLsb'_append_eq_of_le le_rfl,
    BitVec.extractLsb'_append_eq_right⟩

/-- The bits of a code of class EVENT. -/
theorem eventFields_append (n : BitVec 7) (e : BitVec 8) :
    (1#1 ++ n ++ e : Half).getLsbD 15 = true ∧ (1#1 ++ n ++ e : Half).extractLsb' 8 7 = n ∧
      (1#1 ++ n ++ e : Half).extractLsb' 0 8 = e := by
  refine ⟨?flag, ?counter, BitVec.extractLsb'_append_eq_right⟩
  case flag => exact BitVec.getLsbD_append.trans BitVec.getLsbD_append
  case counter =>
    exact (BitVec.extractLsb'_append_eq_of_le le_rfl).trans BitVec.extractLsb'_append_eq_right

/-- The bits of a code of class SET_REG. -/
theorem setRegFields_append (x : BitVec 2) (r : BitVec 12) :
    (1#2 ++ x ++ r : Half).getLsbD 15 = false ∧ (1#2 ++ x ++ r : Half).getLsbD 14 = true ∧
      (1#2 ++ x ++ r : Half).extractLsb' 12 2 = x ∧ (1#2 ++ x ++ r : Half).extractLsb' 0 12 = r := by
  obtain ⟨h15, h14, hx, hr⟩ := classFields_append (1#2 ++ x) r
  exact ⟨h15.trans BitVec.getLsbD_append, h14.trans BitVec.getLsbD_append,
    hx.trans BitVec.extractLsb'_append_eq_right, hr⟩

theorem decodeServiceCommand_encodeWord {i : Instr} (hi : i.format = .serviceCommand16) :
    decodeServiceCommand (encodeWord i) = i := by
  cases i with
  | serviceCommandEvent n e => simp only [encodeWord, decodeServiceCommand, eventFields_append, if_true]
  | serviceCommandSetReg x r =>
    simp only [encodeWord, decodeServiceCommand, setRegFields_append, Bool.false_eq_true, if_true, if_false]
  | serviceCommandGetReg r | serviceCommandOther0 r | serviceCommandOther2 r | serviceCommandOther3 r =>
    simp only [encodeWord, decodeServiceCommand, classFields_append]; rfl
  | _ => cases hi

/-! ### Pipe data command words (R76) -/

theorem pipeFields_append (p : BitVec 9) (m k : BitVec 1) (n : BitVec 5) :
    (p ++ m ++ k ++ n : Half).extractLsb' 7 9 = p ∧ (p ++ m ++ k ++ n : Half).extractLsb' 6 1 = m ∧
      (p ++ m ++ k ++ n : Half).extractLsb' 5 1 = k ∧ (p ++ m ++ k ++ n : Half).extractLsb' 0 5 = n := by
  have above (start len : Nat) : (p ++ m ++ k ++ n : Half).extractLsb' (start + 5) len =
      (p ++ m ++ k).extractLsb' start len :=
    BitVec.extractLsb'_append_eq_of_le (Nat.le_add_left 5 start)
  refine ⟨(above 2 9).trans ?port, (above 1 1).trans ?metadata, (above 0 1).trans ?close,
    BitVec.extractLsb'_append_eq_right⟩
  case port => exact (BitVec.extractLsb'_append_eq_of_le (by decide)).trans BitVec.extractLsb'_append_eq_left
  case metadata => exact (BitVec.extractLsb'_append_eq_of_le le_rfl).trans BitVec.extractLsb'_append_eq_right
  case close => exact BitVec.extractLsb'_append_eq_right

theorem decodePipeWord_encodeWord {i : Instr} (hi : i.format = .pipeCommand16) :
    decodePipeWord (encodeWord i) = i := by
  cases i with
  | pipeDataCommandWord p m k n =>
    simp only [encodeWord, decodePipeWord, pipeFields_append]
  | _ => cases hi

/-! ### Words and instructions -/

theorem decodeWord_encodeWord {i : Instr} (hw : i.wellFormed = true) : decodeWord i.format (encodeWord i) = i := by
  cases hi : i.format with
  | op4 => exact decodeOp_opCode hi hw
  | serviceCommand16 => exact decodeServiceCommand_encodeWord hi
  | pipeCommand16 => exact decodePipeWord_encodeWord hi

theorem decodeWord_format (f : Format) (w : Half) : (decodeWord f w).format = f := by
  cases f with
  | op4 => exact decodeOp_format _
  | serviceCommand16 => exact decodeServiceCommand_format w
  | pipeCommand16 => rfl

/-- Only a reserved operation code can be ill-formed (R81). -/
theorem wellFormed_of_format_ne_op4 {i : Instr} (hi : i.format ≠ .op4) : i.wellFormed = true := by
  cases i with
  | illegalOp op => exact absurd rfl hi
  | _ => rfl

theorem decodeWord_wellFormed (f : Format) (w : Half) : (decodeWord f w).wellFormed = true := by
  by_cases hf : f = .op4
  · subst hf; exact decodeOp_wellFormed _
  · exact wellFormed_of_format_ne_op4 (by rwa [decodeWord_format])

/-- A mask on the low four bits of a byte keeps the operation code (20_memory.md R51). -/
theorem and_lowNibble (b : Byte) : b &&& 0x0F#8 = 0#4 ++ b.extractLsb' 0 4 := by
  have hb : b.extractLsb' 4 4 ++ b.extractLsb' 0 4 = b :=
    (BitVec.extractLsb'_append_extractLsb'_eq_extractLsb' rfl).trans BitVec.extractLsb'_eq_self
  calc b &&& 0x0F#8
      = (b.extractLsb' 4 4 ++ b.extractLsb' 0 4) &&& (0#4 ++ BitVec.allOnes 4) := congrArg (· &&& 0x0F#8) hb.symm
    _ = 0#4 ++ b.extractLsb' 0 4 := by rw [BitVec.and_append, BitVec.and_zero, BitVec.and_allOnes]

theorem encode_decodeOp (w : Half) :
    encode (decodeOp (w.extractLsb' 0 4)) = [w.extractLsb' 0 8 &&& 0x0F#8] := by
  have hlow (op : BitVec 4) : (0#12 ++ op : Half).extractLsb' 0 8 = 0#4 ++ op := by revert op; decide
  have hop : (w.extractLsb' 0 8).extractLsb' 0 4 = w.extractLsb' 0 4 :=
    BitVec.extractLsb'_extractLsb'_of_le (by decide)
  rw [encode, decodeOp_format, encodeWord_decodeOp, formatBytes, hlow, and_lowNibble, hop]

/-- What the decoder answers has the bytes of the word it read, but for the bits an operation code ignores. -/
theorem encode_decodeWord (f : Format) (w : Half) :
    encode (decodeWord f w) =
      if f = .op4 then (formatBytes f w).map (fun b => b &&& 0x0F#8) else formatBytes f w := by
  cases f with
  | op4 => exact encode_decodeOp w
  | serviceCommand16 =>
    rw [encode, decodeWord_format, decodeWord, encodeWord_decodeServiceCommand, if_neg nofun]
  | pipeCommand16 =>
    rw [encode, decodeWord_format, decodeWord, encodeWord_decodePipeWord, if_neg nofun]

namespace Machine

/-- Settles O52: the encoder's bytes carry the instruction's word, and the decoder takes that word apart again. -/
theorem decodeOfEncode : Obligations.DecodeOfEncode := by
  intro i rest hw
  rw [encode, decode_formatBytes, decodeWord_encodeWord hw]

/-- Settles O53: the bytes read carry a word, and every fact about the answer is one about that word. -/
theorem encodeOfDecode : Obligations.EncodeOfDecode := by
  intro f bs i h
  obtain ⟨w, rfl, hbytes⟩ := exists_word_of_decode h
  refine ⟨decodeWord_wellFormed f w, decodeWord_format f w, ?_⟩
  rw [encode_decodeWord, hbytes]
  by_cases hf : f = .op4
  · simp only [hf, if_true]
  · simp only [hf, if_false]

/-- Settles O54 by running the decoder on each word. -/
theorem writtenOutWordsDecode : Obligations.WrittenOutWordsDecode :=
  ⟨rfl, rfl, rfl, rfl, rfl, rfl, rfl, rfl, rfl⟩

/-- Settles O2: `STATUS` of an error has no flag and no reserved bit set, so above `ERR` only the code stands. -/
theorem reservedCodesReportIllegalOp : Obligations.ReservedCodesReportIllegalOp := by
  intro op s hop
  have hstatus : statusWord .illegalOp false false op = 0#4 ++ op ++ 0x0A#8 := by revert op; decide
  exact ⟨decodeOp_of_reserved hop, congrArg (fun v => Host.Outcome.next (s.setStatus v)) hstatus⟩

end Machine
end Sys2Proof
end

section
/-! ## What a presented wire word writes (41_command_codes.md R130 to R132, 42_pipe_marshalling.md R153, log 7) -/

namespace Sys2Proof.Machine

/-! ### The class of a command code, row by row -/

/-- The class and the fields a `serviceCommand` row names in itself (30_encoding.md R74); rows of other formats have
none. `classify_encodeWord` says that these are what CMD_CLASSIFY finds. -/
def classOfRow : Instr → Classified
  | .serviceCommandEvent n e => .event e n
  | .serviceCommandSetReg _ r => .setReg r
  | .serviceCommandGetReg r => .getReg r
  | _ => .other

/-- The class tests (R130) look at the four class bits only, once bit 15 is 0. -/
theorem classify_append {k : BitVec 4} (hk : k.getLsbD 3 = false) (r : BitVec 12) :
    classify Config.spec (k ++ r) =
      if k &&& 0xC#4 = 0x4#4 then .setReg r else if k = 0x1#4 then .getReg r else .other := by
  obtain ⟨h15, -, -, hr⟩ := classFields_append k r
  have hmask (m v : BitVec 4) : (k ++ r) &&& (m ++ 0#12) = v ++ 0#12 ↔ k &&& m = v := by
    rw [BitVec.and_append, BitVec.and_zero, BitVec.append_left_inj]
  have hset : (k ++ r) &&& 0xC000#16 = 0x4000#16 ↔ k &&& 0xC#4 = 0x4#4 := hmask 0xC#4 0x4#4
  have hget : (k ++ r) &&& 0xF000#16 = 0x1000#16 ↔ k = 0x1#4 := by
    have h := hmask (BitVec.allOnes 4) 0x1#4
    rwa [BitVec.and_allOnes] at h
  rw [classify_spec, h15, hk, hr, if_neg Bool.false_ne_true]
  exact if_congr hset rfl (if_congr hget rfl rfl)

/-- CMD_CLASSIFY and the opcode table agree on every command code. -/
theorem classify_encodeWord {i : Instr} (hi : i.format = .serviceCommand16) :
    classify Config.spec (encodeWord i) = classOfRow i := by
  cases i with
  | serviceCommandEvent n e =>
    obtain ⟨hflag, hcounter, hevent⟩ := eventFields_append n e
    simp only [classify_spec, encodeWord, classOfRow, hflag, hcounter, hevent, if_true]
  | serviceCommandSetReg x r =>
    have hclass (y : BitVec 2) : (1#2 ++ y) &&& 0xC#4 = 0x4#4 := by revert y; decide
    exact (classify_append BitVec.getLsbD_append r).trans (if_pos (hclass x))
  | serviceCommandGetReg r | serviceCommandOther0 r | serviceCommandOther2 r | serviceCommandOther3 r =>
    exact classify_append rfl r
  | _ => cases hi

/-! ### The whole next state -/

theorem setWidth_setWidth_half (w : Half) : (w.setWidth 64).setWidth 16 = w := by
  rw [BitVec.setWidth_setWidth_of_le w (by decide), BitVec.setWidth_eq]

theorem toNat_setWidth_half_lt (w : Half) : (w.setWidth 64).toNat < 0x10000 :=
  (BitVec.toNat_setWidth_of_le (by decide)).trans_lt w.isLt

/-- A 16-bit word in an `ARG` register passes the operand check (30_encoding.md R82). -/
theorem checked_setWidth_half (w : Half) : checked 16 (w.setWidth 64) = some w :=
  checked_eq_some.2 ⟨toNat_setWidth_half_lt w, (setWidth_setWidth_half w).symm⟩

/-- A row of a command code answers with the triple of its own class (R132). -/
theorem exec_serviceCommand_eq {i : Instr} (hi : i.format = .serviceCommand16) {f0 f1 f2 : Word}
    (ht : (classOfRow i).triple = (f0, f1, f2)) (s : State) :
    exec i s = .next { s with
      arg0 := (encodeWord i).setWidth 64, res0 := f0, res1 := f1, res2 := f2, status := 0x0400 } := by
  rw [exec_serviceCommand hi]
  refine congrArg Host.Outcome.next (classifyOp_eq_of_triple _ (toNat_setWidth_half_lt _) ?_)
  rw [setArg0_arg0, setWidth_setWidth_half, classify_encodeWord hi, ht]

/-- PIPE_CMD_UNPACK of a word in `ARG0` (42_pipe_marshalling.md R151, R153). -/
theorem unmarshalPipe_eq (w : Half) (s : State) :
    unmarshalPipe Config.spec w s = { s with
      arg0 := w.setWidth 64, res0 := (w.extractLsb' 0 5).setWidth 64, res1 := (w.extractLsb' 7 9).setWidth 64,
      res2 := (w.extractLsb' 6 1 ++ w.extractLsb' 5 1).setWidth 64, status := 0x0900 } := by
  rw [unmarshalPipe, pipeUnpackOp_spec, setArg0_arg0, checked_setWidth_half]
  rfl

/-- Settles O38: each row's word is its encoding, and `classOfRow` reads the class off the row. -/
theorem serviceCommandWordsAreClassified : Obligations.ServiceCommandWordsAreClassified := by
  refine ⟨fun n e => ?event, fun x r => ?setReg, fun r => ?getReg, fun x => ?other0, fun x => ?other2,
    fun x => ?other3⟩
  case event => exact exec_serviceCommand_eq (i := .serviceCommandEvent n e) rfl rfl
  case setReg => exact exec_serviceCommand_eq (i := .serviceCommandSetReg x r) rfl rfl
  case getReg => exact exec_serviceCommand_eq (i := .serviceCommandGetReg r) rfl rfl
  case other0 => exact exec_serviceCommand_eq (i := .serviceCommandOther0 x) rfl rfl
  case other2 => exact exec_serviceCommand_eq (i := .serviceCommandOther2 x) rfl rfl
  case other3 => exact exec_serviceCommand_eq (i := .serviceCommandOther3 x) rfl rfl

/-- Settles O39: the fields PIPE_CMD_UNPACK takes out of the row's word are those the word was put together from. -/
theorem pipeDataCommandWordsAreUnpacked : Obligations.PipeDataCommandWordsAreUnpacked := by
  intro p m k n s
  obtain ⟨hport, hmetadata, hclose, hcounter⟩ := pipeFields_append p m k n
  have hnext := unmarshalPipe_eq (p ++ m ++ k ++ n) s
  rw [hport, hmetadata, hclose, hcounter] at hnext
  exact congrArg Host.Outcome.next hnext

end Sys2Proof.Machine
end

section
/-! ## Frame lengths (30_encoding.md R70) -/

namespace Sys2Proof.Machine

theorem ErrCode.code_eq_zero_iff {e : ErrCode} : e.code = 0 ↔ e = .ok := by
  cases e <;> decide

/-- An error shows in `STATUS.ERR`, whatever the operation changed before it. -/
theorem raiseError_err_ne_zero (s : State) (op : BitVec 4) {e : ErrCode} (he : e ≠ .ok) :
    (s.raiseError op e).err ≠ 0 :=
  fun h => he (ErrCode.code_eq_zero_iff.1 ((statusWord_err e false false op).symm.trans h))

/-- A check of ENCODE that fails names an error. -/
theorem encodeCheck_ne_some_ok (s : State) : encodeCheck Config.spec s ≠ some .ok := by
  rw [encodeCheck_spec]
  split_ifs <;> decide

/-- A length check of DECODE that fails names an error. -/
theorem decodeCheck_ne_some_ok (s : State) : decodeCheck Config.spec s ≠ some .ok := by
  rw [decodeCheck_spec]
  split_ifs <;> decide

/-- Behind the header there is at least one record header (40_frame_codec.md R105). -/
theorem recordsEnd_ge (s : State) (n : Nat) : 16 ≤ recordsEnd Config.spec s n := by
  have h := recordOff_ge s (n - 1)
  simp only [recordsEnd, spec_recHdrBytes]
  omega

/-- The CRC field is written over bytes 0 and 1 only, so a successful ENCODE leaves `size` in byte 2 (R109, R112). -/
theorem encodeOp_flen_and_size {s : State} (h : encodeCheck Config.spec s = none) :
    (encodeOp Config.spec s).flen = BitVec.ofNat 8 (recordsEnd Config.spec s s.pcount.toNat) ∧
      (encodeOp Config.spec s).fbByte 2 = BitVec.ofNat 8 (recordsSize Config.spec s s.pcount.toNat) := by
  rcases encodeOp_cases Config.spec s with ⟨e, he, -⟩ | ⟨-, m, x, rfl, -, ht⟩
  case inl => cases h.symm.trans he
  case inr =>
    rw [ht]
    refine ⟨rfl, fbByte_eq_of_peek ?_⟩
    have hcrc := peek_pokeList_outside (encodeBody Config.spec s s.pcount.toNat) (a := 0) (b := 2) (leBytes 2 x.toNat)
      (.inr (by rw [leBytes_length]))
    exact hcrc.trans (peek_encodeBody_header s s.pcount.toNat).1

theorem encodeCheck_eq_none_of_err {s : State} (h : (encodeOp Config.spec s).err = 0) :
    encodeCheck Config.spec s = none := by
  rcases encodeOp_cases Config.spec s with ⟨e, he, ht⟩ | ⟨hnone, -⟩
  case inl =>
    rw [ht] at h
    exact absurd h (raiseError_err_ne_zero _ _ fun hok => encodeCheck_ne_some_ok s (hok ▸ he))
  case inr => exact hnone

theorem decodeCheck_eq_none_of_err {s : State} (h : (decodeFrame Config.spec s).err = 0) :
    decodeCheck Config.spec s = none := by
  rcases decodeFrame_cases Config.spec s _ _ rfl rfl with ⟨e, he, ht⟩ | ⟨hnone, -⟩
  case inl =>
    rw [ht] at h
    exact absurd h (raiseError_err_ne_zero _ _ fun hok => decodeCheck_ne_some_ok s (hok ▸ he))
  case inr => exact hnone

/-- Settles O11: an operation without error has passed its checks, and these bound `size`. -/
theorem frameLengthsAreBounded : Obligations.FrameLengthsAreBounded := by
  refine ⟨fun s t ht herr => ?encode, fun s t ht herr => ?decode⟩
  case encode =>
    cases ht
    have hnone := encodeCheck_eq_none_of_err herr
    obtain ⟨-, -, -, hsize⟩ := encodeCheck_eq_none.1 hnone
    obtain ⟨hflen, hbyte⟩ := encodeOp_flen_and_size hnone
    have hend := recordsEnd_ge s s.pcount.toNat
    rw [hflen, hbyte, BitVec.toNat_ofNat, BitVec.toNat_ofNat]
    simp only [recordsSize, spec_hdrBytes, spec_maxFrameData] at hsize ⊢
    omega
  case decode =>
    cases ht
    obtain ⟨-, -, hmax, hlen, hmin⟩ := decodeCheck_eq_none.1 (decodeCheck_eq_none_of_err herr)
    exact ⟨hlen, hmin, hmax⟩

end Sys2Proof.Machine
end

section
/-! ## The `frame` line of a host program (30_encoding.md R84)

The bytes go into `FB` one access at a time (`run_writeFBs`, by induction over the bytes); together they are one
`Memory.pokeList`, and the last access writes `FLEN`. -/

namespace Sys2Proof.Machine

theorem step_writeFB {a : Nat} (ha : a < 252) (s : State) (b : Byte) (q : List HostAccess) :
    step { s with hostq := .writeFB a (b.setWidth 64) :: q } =
      .next { s with hostq := q, fb := Memory.poke s.fb a b } := by
  have hb : (b.setWidth 64).setWidth 8 = b := by
    rw [BitVec.setWidth_setWidth_of_le b (by decide), BitVec.setWidth_eq]
  rw [step_request, perform, hostWriteFB_inside ha, hb]
  rfl

theorem step_writeFlen (s : State) (v : Word) (q : List HostAccess) :
    step { s with hostq := .writeReg Reg.flen.number v :: q } = .next { s with hostq := q, flen := v.setWidth 8 } := by
  rw [step_request, perform_writeReg_ne _ _ (by decide), State.hostWriteReg, Reg.ofNumber_number]
  rfl

/-- Writes of consecutive bytes inside `FB`, whatever the host does after them. -/
theorem run_writeFBs {a : Nat} {bs : List Byte} (ha : a + bs.length ≤ 252) (s : State) (q : List HostAccess)
    (n : Nat) :
    Host.Core.run core (bs.length + n) { s with hostq := writeFBs a bs ++ q } =
      Host.Core.run core n { s with hostq := q, fb := Memory.pokeList s.fb a bs } := by
  induction bs generalizing a s with
  | nil => rw [List.length_nil, Nat.zero_add]; rfl
  | cons b bs ih =>
    rw [List.length_cons] at ha
    have hfirst := step_writeFB (show a < 252 by omega) s b (writeFBs (a + 1) bs ++ q)
    rw [List.length_cons, Nat.add_right_comm]
    exact (run_succ_of_step hfirst _).trans (ih (by omega) { s with fb := Memory.poke s.fb a b })

theorem fbByte_setFb_pokeList_inside (s : State) {bs : List Byte} {a : Nat} (h : a < bs.length) :
    (s.setFb (Memory.pokeList s.fb 0 bs)).fbByte a = bs[a] := by
  refine fbByte_eq_of_peek ?_
  have hpeek := peek_pokeList_inside s.fb (a := 0) bs h
  rwa [Nat.zero_add] at hpeek

theorem fbByte_setFb_pokeList_outside (s : State) {bs : List Byte} {a : Nat} (h : bs.length ≤ a) :
    (s.setFb (Memory.pokeList s.fb 0 bs)).fbByte a = s.fbByte a := by
  have hpeek := peek_pokeList_outside s.fb (a := 0) bs (b := a) (.inr (by omega))
  exact congrArg (Option.getD · (Config.unspecFB s.epoch a)) hpeek

/-- Settles O49: after the byte writes the write of `FLEN` is the one step left. -/
theorem frameLineLoadsTheBytes : Obligations.FrameLineLoadsTheBytes := by
  intro s bs q hlen
  refine ⟨{ s with hostq := q, flen := BitVec.ofNat 8 bs.length, fb := Memory.pokeList s.fb 0 bs }, ?run, rfl,
    fun a h => fbByte_setFb_pokeList_inside s h, fun a h => fbByte_setFb_pokeList_outside s h⟩
  case run =>
    have hflen : (BitVec.ofNat 64 bs.length).setWidth 8 = BitVec.ofNat 8 bs.length :=
      BitVec.setWidth_ofNat_of_le (by decide) _
    rw [Line.expand, List.append_assoc, run_writeFBs (by omega), run_one, List.singleton_append, ← hflen]
    exact step_writeFlen { s with fb := Memory.pokeList s.fb 0 bs } _ q

end Sys2Proof.Machine
end

section
/-! ## CRC-16 (40_frame_codec.md R101, R102)

A shift is linear over exclusive or (`crcBit_xor`) and takes only 0 to 0, because the generator's lowest bit is 1
(`crcBit_eq_zero_iff`). The first gives the byte-step form: the low byte of the register only moves up, and the high
byte is one of 256 values. Both together give that a byte step tells apart the registers before it, and the bytes taken
in. -/

namespace Sys2Proof.Machine

/-! ### One shift -/

theorem crcBit_spec (x : Half) :
    crcBit Config.spec x = if x.getLsbD 15 then (x <<< 1) ^^^ 0x1021#16 else x <<< 1 := rfl

theorem crcBit_xor (x y : Half) : crcBit Config.spec (x ^^^ y) = crcBit Config.spec x ^^^ crcBit Config.spec y := by
  have hcancel (u v : Half) : (u ^^^ 0x1021#16) ^^^ (v ^^^ 0x1021#16) = u ^^^ v := by
    rw [BitVec.xor_comm v, BitVec.xor_assoc, ← BitVec.xor_assoc 0x1021#16, BitVec.xor_self, BitVec.zero_xor]
  simp only [crcBit_spec, BitVec.getLsbD_xor, BitVec.shiftLeft_xor_distrib]
  cases x.getLsbD 15 <;> cases y.getLsbD 15
  case true.true => exact (hcancel _ _).symm
  case true.false =>
    show ((x <<< 1) ^^^ (y <<< 1)) ^^^ 0x1021#16 = ((x <<< 1) ^^^ 0x1021#16) ^^^ (y <<< 1)
    ac_rfl
  case false.true => exact BitVec.xor_assoc ..
  case false.false => rfl

theorem toNat_lt_of_topBit {x : Half} (h : x.getLsbD 15 = false) : x.toNat < 2 ^ 15 := by
  have hdouble := BitVec.msb_eq_false_iff_two_mul_lt.1 ((BitVec.msb_eq_getLsbD_last x).trans h)
  omega

theorem crcBit_eq_shiftLeft {x : Half} (h : x.toNat < 2 ^ 15) : crcBit Config.spec x = x <<< 1 := by
  rw [crcBit_spec, if_neg]
  rw [Bool.not_eq_true, BitVec.getLsbD, Nat.testBit_lt_two_pow h]

theorem crcBit_eq_zero_iff {x : Half} : crcBit Config.spec x = 0#16 ↔ x = 0#16 := by
  refine ⟨fun h => ?_, fun h => by rw [h]; rfl⟩
  cases htop : x.getLsbD 15 with
  | true =>
    have hlow : ((x <<< 1) ^^^ 0x1021#16).getLsbD 0 = true := by simp
    rw [crcBit_spec, if_pos htop] at h
    rw [h] at hlow
    cases hlow
  | false =>
    have hlt := toNat_lt_of_topBit htop
    rw [crcBit_eq_shiftLeft hlt] at h
    bv_omega

/-! ### Eight shifts -/

theorem repeat_crcBit_xor (n : Nat) (x y : Half) : Nat.repeat (crcBit Config.spec) n (x ^^^ y) =
    Nat.repeat (crcBit Config.spec) n x ^^^ Nat.repeat (crcBit Config.spec) n y := by
  induction n with
  | zero => rfl
  | succ n ih => simp only [Nat.repeat, ih, crcBit_xor]

theorem repeat_crcBit_eq_zero_iff (n : Nat) {x : Half} :
    Nat.repeat (crcBit Config.spec) n x = 0#16 ↔ x = 0#16 := by
  induction n with
  | zero => rfl
  | succ n ih => rw [Nat.repeat, crcBit_eq_zero_iff, ih]

/-- As long as no bit leaves the register, the shifts only move it. -/
theorem repeat_crcBit_eq_shiftLeft {n : Nat} {x : Half} (h : x.toNat * 2 ^ n < 2 ^ 16) :
    Nat.repeat (crcBit Config.spec) n x = x <<< n := by
  induction n with
  | zero => exact (BitVec.shiftLeft_zero x).symm
  | succ n ih =>
    have hlt : x.toNat * 2 ^ n < 2 ^ 15 := by rw [pow_succ, ← mul_assoc] at h; omega
    have hmoved : (x <<< n).toNat < 2 ^ 15 := by
      rwa [BitVec.toNat_shiftLeft, Nat.shiftLeft_eq, Nat.mod_eq_of_lt (by omega)]
    rw [Nat.repeat, ih (by omega), crcBit_eq_shiftLeft hmoved, ← BitVec.shiftLeft_add]

/-- What the high byte of the register turns into: 256 cases. -/
theorem repeat_crcBit_highByte (h : Byte) {y : Half} (hy : y = h.setWidth 16 ^^^ (h.setWidth 16 >>> 4)) :
    Nat.repeat (crcBit Config.spec) 8 (h.setWidth 16 <<< 8) = (y <<< 12) ^^^ (y <<< 5) ^^^ y := by
  subst hy
  revert h
  decide +kernel

/-! ### One byte -/

theorem crcByte_spec (x : Half) (b : Byte) :
    crcByte Config.spec x b = Nat.repeat (crcBit Config.spec) 8 (x ^^^ (b.setWidth 16 <<< 8)) := rfl

/-- The byte taken in meets the high byte of the register only. -/
theorem xor_shiftedByte (c : Half) (b : Byte) : c ^^^ (b.setWidth 16 <<< 8) =
    (c.setWidth 8).setWidth 16 ^^^ ((c.extractLsb' 8 8 ^^^ b).setWidth 16 <<< 8) := by
  ext i hi
  simp only [BitVec.getElem_xor, BitVec.getElem_shiftLeft, BitVec.getElem_setWidth, BitVec.getLsbD_setWidth,
    BitVec.getLsbD_xor, BitVec.getLsbD_extractLsb']
  by_cases hlow : i < 8
  · simp [hlow, BitVec.getLsbD_eq_getElem hi]
  · simp [hlow, show i - 8 < 8 by omega, show 8 + (i - 8) = i by omega, BitVec.getLsbD_eq_getElem hi]

theorem ushiftRight_xor_setWidth (c : Half) (b : Byte) :
    (c >>> 8) ^^^ b.setWidth 16 = (c.extractLsb' 8 8 ^^^ b).setWidth 16 := by
  ext i hi
  simp only [BitVec.getElem_xor, BitVec.getElem_ushiftRight, BitVec.getElem_setWidth, BitVec.getLsbD_xor,
    BitVec.getLsbD_extractLsb']
  by_cases hlow : i < 8
  · simp [hlow]
  · simp [hlow, c.getLsbD_of_ge (8 + i) (by omega)]

theorem setWidth_byte_shiftLeft (c : Half) : (c.setWidth 8).setWidth 16 <<< 8 = c <<< 8 := by
  apply BitVec.eq_of_toNat_eq
  simp only [BitVec.toNat_shiftLeft, BitVec.toNat_setWidth, Nat.shiftLeft_eq]
  omega

/-- The byte-step form of R101. -/
theorem crcByte_eq_byteStep (c : Half) (b : Byte) {x y : Half} (hx : x = (c >>> 8) ^^^ b.setWidth 16)
    (hy : y = x ^^^ (x >>> 4)) : crcByte Config.spec c b = (c <<< 8) ^^^ (y <<< 12) ^^^ (y <<< 5) ^^^ y := by
  rw [ushiftRight_xor_setWidth] at hx
  subst hx
  have hlow : ((c.setWidth 8).setWidth 16).toNat * 2 ^ 8 < 2 ^ 16 := by
    simp only [BitVec.toNat_setWidth]
    omega
  rw [crcByte_spec, xor_shiftedByte, repeat_crcBit_xor, repeat_crcBit_highByte _ hy, repeat_crcBit_eq_shiftLeft hlow,
    setWidth_byte_shiftLeft, BitVec.xor_assoc, BitVec.xor_assoc, BitVec.xor_assoc]

theorem crcByte_eq_iff {x y : Half} {a b : Byte} : crcByte Config.spec x a = crcByte Config.spec y b ↔
    x ^^^ (a.setWidth 16 <<< 8) = y ^^^ (b.setWidth 16 <<< 8) := by
  rw [crcByte_spec, crcByte_spec, ← BitVec.xor_eq_zero_iff, ← repeat_crcBit_xor, repeat_crcBit_eq_zero_iff,
    BitVec.xor_eq_zero_iff]

/-- After the same byte, different registers stay different. -/
theorem crcByte_register_injective (b : Byte) {x y : Half} (h : crcByte Config.spec x b = crcByte Config.spec y b) :
    x = y :=
  (BitVec.xor_left_inj _).1 (crcByte_eq_iff.1 h)

/-- Different bytes make one register different. -/
theorem crcByte_byte_injective (x : Half) {a b : Byte} (h : crcByte Config.spec x a = crcByte Config.spec x b) :
    a = b := by
  have hshifted := congrArg BitVec.toNat ((BitVec.xor_right_inj _).1 (crcByte_eq_iff.1 h))
  simp only [BitVec.toNat_shiftLeft, BitVec.toNat_setWidth, Nat.shiftLeft_eq] at hshifted
  bv_omega

/-! ### Byte strings -/

theorem crc16_append (bs cs : List Byte) :
    crc16 Config.spec (bs ++ cs) = cs.foldl (crcByte Config.spec) (crc16 Config.spec bs) :=
  List.foldl_append

theorem foldl_crcByte_ne {x y : Half} (h : x ≠ y) (bs : List Byte) :
    bs.foldl (crcByte Config.spec) x ≠ bs.foldl (crcByte Config.spec) y := by
  induction bs generalizing x y with
  | nil => exact h
  | cons b bs ih => exact ih (mt (crcByte_register_injective b) h)

/-- Two byte strings that differ in one byte have different CRCs (R102). -/
theorem crc16_ne_of_byte_ne {a b : Byte} (h : a ≠ b) (pre post : List Byte) :
    crc16 Config.spec (pre ++ a :: post) ≠ crc16 Config.spec (pre ++ b :: post) := by
  rw [crc16_append, crc16_append]
  exact foldl_crcByte_ne (mt (crcByte_byte_injective _) h) post

/-- Settles O6: the byte-step form is `crcByte_eq_byteStep`; the check values are computed. -/
theorem crc16IsTheBitLoopAndItsByteForm : Obligations.Crc16IsTheBitLoopAndItsByteForm := by
  refine ⟨rfl, fun bs b => ?append, ⟨?digits, ?zero, ?ones⟩, fun c x y b hx hy => crcByte_eq_byteStep c b hx hy⟩
  case append => rw [crc16_append]; rfl
  all_goals decide +kernel

end Sys2Proof.Machine
end

section
/-! ## NOP and CRC (40_frame_codec.md R100, R103) -/

namespace Sys2Proof.Machine

/-! ### `LASTOP` tells the operation (10_state.md R25) -/

theorem exec_lastop {i : Instr} {s t : State} (hi : i.format = .op4) (h : exec i s = .next t) :
    t.lastop = opCode i := by
  obtain ⟨e, trail, porthi, hstatus, -⟩ := (exec_opEnd hi h).status_eq
  rw [State.lastop, hstatus, statusWord_lastop]

/-- A wire-encoding row runs one of two operations of the unit, on the state with the word in `ARG0` (log 7). -/
theorem exec_wire_unmarshals {i : Instr} (hi : i.format ≠ .op4) :
    ∃ j w, (j = .cmdClassify ∨ j = .pipeCmdUnpack) ∧ ∀ s, exec i s = exec j (s.setArg0 w) := by
  cases i
  case pipeDataCommandWord => exact ⟨.pipeCmdUnpack, _, .inr rfl, fun _ => rfl⟩
  case serviceCommandEvent | serviceCommandSetReg | serviceCommandGetReg | serviceCommandOther0 |
      serviceCommandOther2 | serviceCommandOther3 => exact ⟨.cmdClassify, _, .inl rfl, fun _ => rfl⟩
  all_goals exact absurd rfl hi

/-- Settles O1: `LASTOP` of a `STATUS` of 0 is the code of NOP. -/
theorem nopAloneClearsStatus : Obligations.NopAloneClearsStatus := by
  refine ⟨fun s => rfl, fun i s t hw h hstatus => ?_⟩
  have hzero : t.lastop = 0 := by rw [State.lastop, hstatus]; rfl
  by_cases hi : i.format = .op4
  · have hcode : opCode i = 0 := (exec_lastop hi h).symm.trans hzero
    rw [← decodeOp_opCode hi hw, hcode]
    rfl
  · obtain ⟨j, w, hj, hrun⟩ := exec_wire_unmarshals hi
    rw [hrun] at h
    rcases hj with rfl | rfl
    · cases (exec_lastop rfl h).symm.trans hzero
    · cases (exec_lastop rfl h).symm.trans hzero

/-! ### The CRC operation -/

theorem crcOp_of_range {s : State} (ha : s.arg0.toNat ≤ 252) (hn : s.arg1.toNat ≤ 252 - s.arg0.toNat) :
    crcOp Config.spec s = { s with
      crc := crc16 Config.spec (s.fbRange s.arg0.toNat s.arg1.toNat)
      res0 := (crc16 Config.spec (s.fbRange s.arg0.toNat s.arg1.toNat)).setWidth 64
      status := statusWord .ok false false 0x3 } := by
  rw [crcOp, rangeOperand_eq_some.2 ⟨rfl, ha, hn⟩]
  rfl

theorem crcOp_of_outside {s : State} (h : 252 < s.arg0.toNat ∨ 252 - s.arg0.toNat < s.arg1.toNat) :
    crcOp Config.spec s = s.raiseError 0x3 .badOperand := by
  rcases crcOp_cases Config.spec s with ⟨-, hend⟩ | ⟨x, hrange, -⟩
  case inl => exact hend
  case inr =>
    obtain ⟨-, ha, hn⟩ := rangeOperand_eq_some.1 hrange
    simp only [spec_fbSize] at ha hn
    omega

/-- Settles O7: the two ends of `crcOp`. -/
theorem crcOperationResult : Obligations.CrcOperationResult :=
  ⟨fun _ ha hn => congrArg Host.Outcome.next (crcOp_of_range ha hn),
    fun _ h => congrArg Host.Outcome.next (crcOp_of_outside h)⟩

end Sys2Proof.Machine
end

section
/-! ## ENCODE (40_frame_codec.md R105 to R113)

A successful ENCODE leaves the bytes of `encodeBody` from offset 2 on (`peek_encodeOp`), and these are the records of
the packets at their offsets with zero padding between them. `HoldsRecords` says so of any buffer, record by record as
DECODE reads them: it is what the two operations have in common. -/

namespace Sys2Proof.Machine

/-! ### Placement (R105) -/

theorem recordOff_succ (s : State) (k : Nat) :
    recordOff Config.spec s (k + 1) = recordOff Config.spec s k + (4 + (s.ptPLEN k).toNat + 3) / 4 * 4 := rfl

theorem four_dvd_recordOff (s : State) (k : Nat) : 4 ∣ recordOff Config.spec s k := by
  induction k with
  | zero => exact ⟨3, rfl⟩
  | succ k ih => exact ih.add (alignUp_four _).2.2

theorem recordsEnd_eq_size (s : State) (n : Nat) : recordsEnd Config.spec s n = recordsSize Config.spec s n + 12 := by
  have hge := recordsEnd_ge s n
  simp only [recordsSize, spec_hdrBytes]
  omega

/-- Settles O9: the placement is `recordOff` itself, and rounding up to 4 keeps the offsets multiples of 4. -/
theorem recordsArePlacedAligned : Obligations.RecordsArePlacedAligned :=
  fun s => ⟨rfl, recordOff_succ s, fun n _ => ⟨rfl, (recordsEnd_eq_size s n).symm⟩, four_dvd_recordOff s⟩

/-! ### The checks (R106 to R108, R113) -/

theorem exec_encode_of_check {s : State} {e : ErrCode} (h : encodeCheck Config.spec s = some e) :
    exec .encode s = .next { s with flen := 0, status := statusWord e false false 0x1 } := by
  refine congrArg Host.Outcome.next ?_
  rw [encodeOp, h]
  rfl

/-- Settles O8: each clause takes its branch of `encodeCheck_spec`. -/
theorem encodeRefusesInOrder : Obligations.EncodeRefusesInOrder := by
  have longPayload {s : State} : ((List.range s.pcount.toNat).any fun k => decide (236 < (s.ptPLEN k).toNat)) = true ↔
      ∃ k < s.pcount.toNat, 236 < (s.ptPLEN k).toNat := by simp
  refine fun s => ⟨fun hn => ?tooMany, fun hn => ?empty, fun hn hlong => ?long, fun hpos hn hplen hsize => ?tooLarge,
    fun _ hsize => ?inside⟩
  case tooMany => exact exec_encode_of_check (s := s) (by rw [encodeCheck_spec, if_pos hn])
  case empty => exact exec_encode_of_check (s := s) (by rw [encodeCheck_spec, if_neg (by omega), if_pos hn])
  case long =>
    have hpos : s.pcount.toNat ≠ 0 := by obtain ⟨k, hk, -⟩ := hlong; omega
    exact exec_encode_of_check (s := s) (by
      rw [encodeCheck_spec, if_neg (by omega), if_neg hpos, if_pos (longPayload.2 hlong)])
  case tooLarge =>
    have hshort : ¬∃ k < s.pcount.toNat, 236 < (s.ptPLEN k).toNat :=
      fun ⟨k, hk, hlong⟩ => absurd (hplen k hk) (by omega)
    exact exec_encode_of_check (s := s) (by
      rw [encodeCheck_spec, if_neg (by omega), if_neg (by omega), if_neg (mt longPayload.1 hshort), if_pos hsize])
  case inside => rw [recordsEnd_eq_size]; omega

/-! ### What a successful ENCODE leaves -/

section
variable {s : State} (h : encodeCheck Config.spec s = none)
include h

/-- All of the next state but the bytes of `FB` (R112). -/
theorem encodeOp_of_check : ∃ x,
    x = crc16 Config.spec ((s.setFb (encodeBody Config.spec s s.pcount.toNat)).fbRange 2
      (recordsEnd Config.spec s s.pcount.toNat - 2)) ∧
    encodeOp Config.spec s = { s with
      fb := Memory.pokeList (encodeBody Config.spec s s.pcount.toNat) 0 (leBytes 2 x.toNat)
      crc := x
      flen := BitVec.ofNat 8 (recordsEnd Config.spec s s.pcount.toNat)
      status := statusWord .ok false false 0x1 } := by
  rcases encodeOp_cases Config.spec s with ⟨e, he, -⟩ | ⟨-, m, x, rfl, hx, hend⟩
  case inl => cases h.symm.trans he
  case inr => exact ⟨x, hx, hend⟩

/-- After the CRC field the buffer is `encodeBody`. -/
theorem peek_encodeOp {a : Nat} (ha : 2 ≤ a) :
    Memory.peek (encodeOp Config.spec s).fb a = Memory.peek (encodeBody Config.spec s s.pcount.toNat) a := by
  obtain ⟨x, -, hend⟩ := encodeOp_of_check h
  rw [hend]
  exact peek_pokeList_outside _ _ (.inr (by rwa [leBytes_length]))

theorem encodeOp_epoch : (encodeOp Config.spec s).epoch = s.epoch := by
  obtain ⟨x, -, hend⟩ := encodeOp_of_check h
  rw [hend]

/-- The CRC is the one of the bytes after the CRC field as they stand in the frame. -/
theorem encodeOp_crc : (encodeOp Config.spec s).crc =
    crc16 Config.spec ((encodeOp Config.spec s).fbRange 2 (recordsEnd Config.spec s s.pcount.toNat - 2)) := by
  have hcovered : (encodeOp Config.spec s).fbRange 2 (recordsEnd Config.spec s s.pcount.toNat - 2) =
      (s.setFb (encodeBody Config.spec s s.pcount.toNat)).fbRange 2 (recordsEnd Config.spec s s.pcount.toNat - 2) := by
    refine List.map_congr_left fun i _ => ?_
    simp only [State.fbByte, peek_encodeOp h (Nat.le_add_right 2 i), encodeOp_epoch h, setFb_fb, setFb_epoch]
  obtain ⟨x, hx, hend⟩ := encodeOp_of_check h
  rw [hcovered, ← hx, hend]

/-- The CRC field (R112). -/
theorem encodeOp_crcField : (encodeOp Config.spec s).fbByte 0 = (encodeOp Config.spec s).crc.extractLsb' 0 8 ∧
    (encodeOp Config.spec s).fbByte 1 = (encodeOp Config.spec s).crc.extractLsb' 8 8 := by
  obtain ⟨x, -, hend⟩ := encodeOp_of_check h
  have hbyte {i : Nat} (hi : i < 2) : (encodeOp Config.spec s).fbByte i = x.extractLsb' (8 * i) 8 := by
    have hlen : i < (leBytes 2 x.toNat).length := by rwa [leBytes_length]
    have hpeek := peek_pokeList_inside (encodeBody Config.spec s s.pcount.toNat) (a := 0) _ hlen
    rw [Nat.zero_add, leBytes_getElem_bitVec] at hpeek
    rw [hend]
    exact fbByte_eq_of_peek hpeek
  have hcrc : (encodeOp Config.spec s).crc = x := by rw [hend]
  rw [hcrc]
  exact ⟨hbyte (by decide), hbyte (by decide)⟩

/-- The rest of the header (R109). -/
theorem encodeOp_header :
    (encodeOp Config.spec s).fbByte 2 = BitVec.ofNat 8 (recordsSize Config.spec s s.pcount.toNat) ∧
    (encodeOp Config.spec s).fbByte 3 = s.fflags ∧
    ∀ i < 8, (encodeOp Config.spec s).fbByte (4 + i) = s.devid.extractLsb' (8 * i) 8 := by
  obtain ⟨hsize, hflags, hdevid⟩ := peek_encodeBody_header s s.pcount.toNat
  exact ⟨fbByte_eq_of_peek ((peek_encodeOp h (by decide)).trans hsize),
    fbByte_eq_of_peek ((peek_encodeOp h (by decide)).trans hflags),
    fun i hi => fbByte_eq_of_peek ((peek_encodeOp h (by omega)).trans (hdevid i hi))⟩

/-- The bytes of a record (R110). -/
theorem encodeOp_recordByte {k i : Nat} (hk : k < s.pcount.toNat)
    (hi : i < (recordBytes Config.spec s s.pcount.toNat k).length) :
    (encodeOp Config.spec s).fbByte (recordOff Config.spec s k + i) =
      (recordBytes Config.spec s s.pcount.toNat k)[i] := by
  have hoff := recordOff_ge s k
  exact fbByte_eq_of_peek ((peek_encodeOp h (by omega)).trans (peek_encodeBody_record s hk hi))

/-- Bytes from `end` upward stay (R111). -/
theorem encodeOp_beyond {a : Nat} (ha : recordsEnd Config.spec s s.pcount.toNat ≤ a) :
    (encodeOp Config.spec s).fbByte a = s.fbByte a := by
  have hge := recordsEnd_ge s s.pcount.toNat
  have hpeek := (peek_encodeOp h (show 2 ≤ a by omega)).trans (peek_encodePrefix_beyond s s.pcount.toNat le_rfl ha)
  rw [State.fbByte, State.fbByte, hpeek, encodeOp_epoch h]

end

/-! ### Records in a buffer -/

/-- Entry `k` as a record (10_state.md R33, 30_encoding.md R72). -/
def recordOf (s : State) (k : Nat) : Rec where
  si := s.ptSI k
  cmd := s.ptCMD k
  plen := s.ptPLEN k
  payload := s.ptPayload Config.spec k (s.ptPLEN k).toNat

/-- The buffer of `f` holds the first `n` packets of `s` as records at their offsets, with zero padding between them. -/
structure HoldsRecords (f s : State) (n : Nat) : Prop where
  record : ∀ k < n, recordAt Config.spec f (recordOff Config.spec s k) = recordOf s k
  padding : ∀ k p, k + 1 < n → recordOff Config.spec s k + 4 + (s.ptPLEN k).toNat ≤ p →
    p < recordOff Config.spec s (k + 1) → f.fbByte p = 0

/-- What a record of an entry means byte by byte. -/
theorem recordAt_eq_recordOf_iff {f s : State} {p k : Nat} : recordAt Config.spec f p = recordOf s k ↔
    f.fbByte p = s.ptPLEN k ∧ f.fbByte (p + 1) = s.ptSI k ∧
      f.fbByte (p + 2) = (s.ptCMD k).extractLsb' 0 8 ∧ f.fbByte (p + 3) = (s.ptCMD k).extractLsb' 8 8 ∧
      ∀ j < (s.ptPLEN k).toNat, f.fbByte (p + 4 + j) = s.ptByte Config.spec k j := by
  rw [eq_comm, recordAt_fields]
  have hcmd : s.ptCMD k = f.fbByte (p + 3) ++ f.fbByte (p + 2) ↔
      f.fbByte (p + 2) = (s.ptCMD k).extractLsb' 0 8 ∧ f.fbByte (p + 3) = (s.ptCMD k).extractLsb' 8 8 := by
    constructor
    · intro h
      rw [h, BitVec.extractLsb'_append_eq_right, BitVec.extractLsb'_append_eq_left]
      exact ⟨rfl, rfl⟩
    · rintro ⟨hlo, hhi⟩
      rw [hlo, hhi, append_bytes]
  have hpayload : s.ptPayload Config.spec k (s.ptPLEN k).toNat =
      (List.range (s.ptPLEN k).toNat).map (fun j => f.fbByte (p + 4 + j)) ↔
      ∀ j < (s.ptPLEN k).toNat, f.fbByte (p + 4 + j) = s.ptByte Config.spec k j := by
    simp only [State.ptPayload, List.map_inj_left, List.mem_range, eq_comm]
  simp only [recordOf, hcmd, hpayload, and_assoc, eq_comm (a := f.fbByte p), eq_comm (a := f.fbByte (p + 1))]

/-- The parts of a record as ENCODE writes it (R110). -/
theorem recordBytes_eq_cons (s : State) (n k : Nat) : recordBytes Config.spec s n k =
    s.ptPLEN k :: s.ptSI k :: (s.ptCMD k).extractLsb' 0 8 :: (s.ptCMD k).extractLsb' 8 8 ::
      (s.ptPayload Config.spec k (s.ptPLEN k).toNat ++
        if k + 1 < n then
          List.replicate (recordOff Config.spec s (k + 1) - (recordOff Config.spec s k + 4 + (s.ptPLEN k).toNat)) 0
        else []) := by
  have hcmd : leBytes 2 (s.ptCMD k).toNat = [(s.ptCMD k).extractLsb' 0 8, (s.ptCMD k).extractLsb' 8 8] := by
    refine List.ext_getElem (leBytes_length _ _) fun i hi hi' => ?_
    rw [leBytes_getElem_bitVec]
    match i, hi' with
    | 0, _ => rfl
    | 1, _ => rfl
  rw [recordBytes, hcmd]
  rfl

theorem recordBytes_payload {s : State} {n k j : Nat} (hj : j < (s.ptPLEN k).toNat) :
    (recordBytes Config.spec s n k)[j + 4]? = some (s.ptByte Config.spec k j) := by
  have hlen : j < (s.ptPayload Config.spec k (s.ptPLEN k).toNat).length := by rwa [ptPayload_length]
  simp only [recordBytes_eq_cons, List.getElem?_cons_succ]
  rw [List.getElem?_append_left hlen, List.getElem?_eq_getElem hlen, ptPayload_getElem]

theorem recordBytes_padding {s : State} {n k i : Nat} (hk : k + 1 < n) (hlo : 4 + (s.ptPLEN k).toNat ≤ i)
    (hhi : recordOff Config.spec s k + i < recordOff Config.spec s (k + 1)) :
    (recordBytes Config.spec s n k)[i]? = some 0 := by
  obtain ⟨d, rfl⟩ := Nat.exists_eq_add_of_le hlo
  rw [show 4 + (s.ptPLEN k).toNat + d = (s.ptPLEN k).toNat + d + 4 by omega]
  simp only [recordBytes_eq_cons, List.getElem?_cons_succ, if_pos hk]
  rw [List.getElem?_append_right (by rw [ptPayload_length]; omega), ptPayload_length, List.getElem?_replicate,
    if_pos (by omega)]

theorem encodeOp_holdsRecords {s : State} (h : encodeCheck Config.spec s = none) :
    HoldsRecords (encodeOp Config.spec s) s s.pcount.toNat := by
  have hbyte {k : Nat} (hk : k < s.pcount.toNat) {i : Nat} {v : Byte}
      (hv : (recordBytes Config.spec s s.pcount.toNat k)[i]? = some v) :
      (encodeOp Config.spec s).fbByte (recordOff Config.spec s k + i) = v := by
    obtain ⟨hi, rfl⟩ := List.getElem?_eq_some_iff.1 hv
    exact encodeOp_recordByte h hk hi
  refine ⟨fun k hk => recordAt_eq_recordOf_iff.2 ?record, fun k p hk hlo hhi => ?padding⟩
  case record =>
    refine ⟨hbyte hk (i := 0) rfl, hbyte hk (i := 1) rfl, hbyte hk (i := 2) ?cmdLow, hbyte hk (i := 3) ?cmdHigh,
      fun j hj => ?payload⟩
    case cmdLow | cmdHigh => rw [recordBytes_eq_cons]; rfl
    case payload =>
      rw [Nat.add_assoc, Nat.add_comm 4]
      exact hbyte hk (recordBytes_payload hj)
  case padding =>
    obtain ⟨i, rfl⟩ := Nat.exists_eq_add_of_le ((Nat.le_add_right _ _).trans ((Nat.le_add_right _ _).trans hlo))
    exact hbyte (by omega) (recordBytes_padding hk (by omega) (by omega))

/-- Settles O10: the header, the records and the bytes from `end` on are the lemmas above, one for each. -/
theorem encodeWritesTheFrame : Obligations.EncodeWritesTheFrame := by
  rintro s n stop rfl rfl hpos hn hplen hsize
  have h : encodeCheck Config.spec s = none := encodeCheck_eq_none.2 ⟨hn, by omega, hplen, hsize⟩
  have hrecords := encodeOp_holdsRecords h
  obtain ⟨hsizeByte, hflags, hdevid⟩ := encodeOp_header h
  refine ⟨encodeOp Config.spec s, rfl, ?registers, encodeOp_crcField h, ?size, hflags, hdevid, ?records,
    fun a ha => encodeOp_beyond h ha⟩
  case registers =>
    obtain ⟨x, -, hend⟩ := encodeOp_of_check h
    rw [← encodeOp_crc h, hend]
    rfl
  case size => rw [hsizeByte, BitVec.toNat_ofNat]; omega
  case records =>
    rintro k o hk rfl
    obtain ⟨hlen, hsi, hlo, hhi, hpayload⟩ := recordAt_eq_recordOf_iff.1 (hrecords.record k hk)
    exact ⟨hlen, hsi, hlo, hhi, hpayload, fun hnext p => hrecords.padding k p hnext⟩

end Sys2Proof.Machine
end

section
/-! ## DECODE (40_frame_codec.md R115 to R122)

In the terms of the statements DECODE has four ends (`DecodeEnd`): a length error, a CRC mismatch, a record area that no
records fill, and the commit of the records that fill it. The last error of the walk, `TOO_MANY_PACKETS`, has no place:
every record takes four bytes of an area of at most 240. -/

namespace Sys2Proof.Machine

/-! ### The record walk (R118) -/

/-- The walk has no room for 60 records before its end. -/
theorem walkRecords_ne_tooManyPackets {s : State} {stop fuel p : Nat} {acc : List Rec} (hstop : stop ≤ 252)
    (hp : 12 + 4 * acc.length ≤ p) : walkRecords Config.spec s stop fuel p acc ≠ .error .tooManyPackets := by
  induction fuel generalizing p acc with
  | zero => rintro ⟨⟩
  | succ fuel ih =>
    have hup := (alignUp_four (4 + (s.fbByte p).toNat)).1
    rw [walkRecords_spec]
    split
    · split
      · rintro ⟨⟩
      · rw [if_neg (by omega)]
        exact ih (by rw [List.length_append, List.length_singleton]; omega)
    · rintro ⟨⟩

theorem frameStop_le {s : State} (h : lengthsOk s) : frameStop s ≤ 252 := by
  obtain ⟨-, -, hsize, -⟩ := h
  rw [frameStop]
  omega

/-- A frame has at most 60 records (the inference of R118). -/
theorem recordChain_length_le {s : State} (h : lengthsOk s) {rs : List Rec}
    (hchain : recordChain s (frameStop s) 12 rs) : rs.length ≤ 60 := by
  have hlen := (recordChain_length s _ _ rs hchain).1
  have hstop := frameStop_le h
  omega

/-- A record's payload has the length the record states, and fits an entry. -/
theorem recordChain_payload {s : State} {stop p : Nat} {rs : List Rec} (h : recordChain s stop p rs) (hp : 12 ≤ p)
    (hstop : stop ≤ 252) : ∀ r ∈ rs, r.payload.length = r.plen.toNat ∧ r.plen.toNat ≤ 236 := by
  induction rs generalizing p with
  | nil => simp
  | cons r rs ih =>
    obtain ⟨-, hend, -, -, -, hpayload, hrest⟩ := h
    rw [List.forall_mem_cons]
    refine ⟨⟨?_, by omega⟩, ih hrest (by omega)⟩
    rw [hpayload, List.length_map, List.length_range]

theorem walkRecords_eq_ok_iff {s : State} (h : lengthsOk s) {rs : List Rec} :
    walkRecords Config.spec s (frameStop s) (frameStop s - 12) 12 [] = .ok rs ↔ recordChain s (frameStop s) 12 rs :=
  walkRecords_ok_iff s _ _ _ [] rs le_rfl fun rs hchain => by
    have hlen := recordChain_length_le h hchain
    rwa [List.length_nil, Nat.zero_add]

theorem walkRecords_eq_overrun {s : State} (h : lengthsOk s) (hnone : ¬∃ rs, recordChain s (frameStop s) 12 rs) :
    walkRecords Config.spec s (frameStop s) (frameStop s - 12) 12 [] = .error .recordOverrun := by
  rcases walkRecords_cases Config.spec s (frameStop s) (frameStop s - 12) 12 [] with ⟨rs, hok⟩ | hover | hmany
  case inl => exact absurd ⟨_, (walkRecords_eq_ok_iff h).1 hok⟩ hnone
  case inr.inl => exact hover
  case inr.inr => exact absurd hmany (walkRecords_ne_tooManyPackets (frameStop_le h) le_rfl)

/-! ### The four ends -/

theorem decodeCheck_eq_none_iff {s : State} : decodeCheck Config.spec s = none ↔ lengthsOk s := decodeCheck_eq_none

theorem storedCrc_eq (s : State) : BitVec.ofNat 16 (leValue (s.fbRange 0 2)) = storedCrc s :=
  leValue_two (s.fbByte 0) (s.fbByte 1)

/-- The state after DECODE has accepted the records `rs` (R119). -/
def accepted (s : State) (rs : List Rec) : State :=
  { s with
    crc := computedCrc s
    devid := BitVec.ofNat 64 (leValue (s.fbRange 4 8))
    fflags := s.fbByte 3
    pcount := BitVec.ofNat 8 rs.length
    pt := commitRecords Config.spec 0 rs s.pt
    status := statusWord .ok (trailFlag s.flen.toNat (frameStop s)) false 0x2 }

section
variable {s : State}

theorem exec_decode_of_check {e : ErrCode} (h : decodeCheck Config.spec s = some e) :
    exec .decode s = .next (decodeFail s e) := by
  refine congrArg Host.Outcome.next ?_
  rw [decodeFrame, h]

theorem exec_decode_of_mismatch (h : lengthsOk s) (hne : computedCrc s ≠ storedCrc s) :
    exec .decode s = .next (decodeFail (s.setCrc (computedCrc s)) .crcMismatch) :=
  congrArg Host.Outcome.next
    (decodeFrame_of_mismatch (decodeCheck_eq_none_iff.2 h) rfl rfl ((storedCrc_eq s).symm ▸ hne))

theorem exec_decode_of_overrun (h : lengthsOk s) (heq : computedCrc s = storedCrc s)
    (hnone : ¬∃ rs, recordChain s (frameStop s) 12 rs) :
    exec .decode s = .next (decodeFail (s.setCrc (computedCrc s)) .recordOverrun) :=
  congrArg Host.Outcome.next (decodeFrame_of_walk_error (decodeCheck_eq_none_iff.2 h) rfl rfl
    (heq.trans (storedCrc_eq s).symm) (walkRecords_eq_overrun h hnone))

theorem exec_decode_of_chain (h : lengthsOk s) (heq : computedCrc s = storedCrc s) {rs : List Rec}
    (hchain : recordChain s (frameStop s) 12 rs) : exec .decode s = .next (accepted s rs) :=
  congrArg Host.Outcome.next (decodeFrame_of_walk_ok (decodeCheck_eq_none_iff.2 h) rfl rfl
    (heq.trans (storedCrc_eq s).symm) ((walkRecords_eq_ok_iff h).2 hchain))

/-- How DECODE can end from state `s`. -/
inductive DecodeEnd (s : State) : State → Prop where
  /-- A length check fails (R115, R116). -/
  | badLengths (e : ErrCode) (h : decodeCheck Config.spec s = some e) : DecodeEnd s (decodeFail s e)
  /-- The CRC does not match (R117). -/
  | mismatch (h : lengthsOk s) (hne : computedCrc s ≠ storedCrc s) :
    DecodeEnd s (decodeFail (s.setCrc (computedCrc s)) .crcMismatch)
  /-- No records fill the record area (R118). -/
  | overrun (h : lengthsOk s) (heq : computedCrc s = storedCrc s) (hnone : ¬∃ rs, recordChain s (frameStop s) 12 rs) :
    DecodeEnd s (decodeFail (s.setCrc (computedCrc s)) .recordOverrun)
  /-- The records `rs` fill it (R119). -/
  | accepted (rs : List Rec) (h : lengthsOk s) (heq : computedCrc s = storedCrc s)
    (hchain : recordChain s (frameStop s) 12 rs) : DecodeEnd s (accepted s rs)

theorem exec_decodeEnd {t : State} (ht : exec .decode s = .next t) : DecodeEnd s t := by
  cases hcheck : decodeCheck Config.spec s with
  | some e =>
    cases (exec_decode_of_check hcheck).symm.trans ht
    exact .badLengths e hcheck
  | none =>
    have h := decodeCheck_eq_none_iff.1 hcheck
    by_cases heq : computedCrc s = storedCrc s
    case neg =>
      cases (exec_decode_of_mismatch h heq).symm.trans ht
      exact .mismatch h heq
    case pos =>
      by_cases hchain : ∃ rs, recordChain s (frameStop s) 12 rs
      case pos =>
        obtain ⟨rs, hchain⟩ := hchain
        cases (exec_decode_of_chain h heq hchain).symm.trans ht
        exact .accepted rs h heq hchain
      case neg =>
        cases (exec_decode_of_overrun h heq hchain).symm.trans ht
        exact .overrun h heq hchain

end

/-! ### Failures (R115 to R117, R120) -/

@[simp] theorem raiseError_err (s : State) (op : BitVec 4) (e : ErrCode) : (s.raiseError op e).err = e.code :=
  statusWord_err e false false op

@[simp] theorem decodeFail_err (s : State) (e : ErrCode) : (decodeFail s e).err = e.code := raiseError_err _ _ e

theorem accepted_err (s : State) (rs : List Rec) : (accepted s rs).err = 0 :=
  statusWord_err .ok (trailFlag s.flen.toNat (frameStop s)) false 0x2

/-- Settles O14: each clause takes its branch of `decodeCheck_spec`. -/
theorem decodeRefusesLengthsInOrder : Obligations.DecodeRefusesLengthsInOrder := by
  rintro s len size rfl rfl
  refine ⟨fun h => ?tooLong, fun h => ?noHeader, fun h₁ h₂ h₃ => ?tooLarge, fun h₁ h₂ h₃ h₄ => ?short,
    fun h₁ h₂ h₃ => ?empty⟩
  case tooLong => exact exec_decode_of_check (s := s) (by rw [decodeCheck_spec, if_pos h])
  case noHeader => exact exec_decode_of_check (s := s) (by rw [decodeCheck_spec, if_neg (by omega), if_pos h])
  case tooLarge =>
    exact exec_decode_of_check (s := s) (by
      rw [decodeCheck_spec, if_neg (by omega), if_neg (by omega), if_pos h₃])
  case short =>
    exact exec_decode_of_check (s := s) (by
      rw [decodeCheck_spec, if_neg (by omega), if_neg (by omega), if_neg (by omega), if_pos h₄])
  case empty =>
    exact exec_decode_of_check (s := s) (by
      rw [decodeCheck_spec, if_neg (by omega), if_neg (by omega), if_neg (by omega), if_neg (by omega), if_pos h₃])

/-- Settles O15: both ends behind a matching CRC leave the computed one. -/
theorem decodeComparesTheCrc : Obligations.DecodeComparesTheCrc := by
  refine fun s h => ⟨fun hne => exec_decode_of_mismatch h hne, fun heq => ?_⟩
  by_cases hchain : ∃ rs, recordChain s (frameStop s) 12 rs
  case pos =>
    obtain ⟨rs, hchain⟩ := hchain
    exact ⟨_, exec_decode_of_chain h heq hchain, rfl, by rw [accepted_err]; decide⟩
  case neg => exact ⟨_, exec_decode_of_overrun h heq hchain, rfl, by rw [decodeFail_err]; decide⟩

/-- The codes of a length error (R115, R116). -/
theorem decodeCheck_code {s : State} {e : ErrCode} (h : decodeCheck Config.spec s = some e) :
    e = .badOperand ∨ e = .shortFrame ∨ e = .frameTooLarge ∨ e = .emptyFrame := by
  rw [decodeCheck_spec] at h
  split_ifs at h <;> cases h <;> simp

/-- Settles O17: each of the three failing ends fixes its code and its `CRC`. -/
theorem decodeFailureEffects : Obligations.DecodeFailureEffects := by
  intro s t ht herr
  cases exec_decodeEnd ht with
  | badLengths e he =>
    refine ⟨rfl, fun _ => rfl, fun hcode => ?_⟩
    rw [decodeFail_err] at hcode
    rcases decodeCheck_code he with rfl | rfl | rfl | rfl <;> exact absurd hcode (by decide)
  | mismatch => exact ⟨rfl, fun hcode => absurd (decodeFail_err _ _ ▸ hcode) (by decide), fun _ => rfl⟩
  | overrun => exact ⟨rfl, fun hcode => absurd (decodeFail_err _ _ ▸ hcode) (by decide), fun _ => rfl⟩
  | accepted rs => exact absurd (accepted_err s rs) herr

end Sys2Proof.Machine
end

section
/-! ## What an accepted frame leaves (40_frame_codec.md R119, R122)

The commit of the records that fill the record area makes entry `k` record `k` (`accepted_recordOf`), and with the
packets of a state read off its entries as records (`packets_eq`), these are the packets of the frame. -/

namespace Sys2Proof.Machine

/-! ### Little-endian values (00_scope.md R7) -/

theorem leBytes_succ (n v : Nat) : leBytes (n + 1) v = BitVec.ofNat 8 v :: leBytes n (v / 256) := by
  refine List.ext_getElem (by simp) fun i hi hi' => ?_
  rw [leBytes_getElem]
  cases i with
  | zero => rfl
  | succ i =>
    rw [List.getElem_cons_succ, leBytes_getElem, show 8 * (i + 1) = 8 + 8 * i by omega, Nat.shiftRight_add,
      Nat.shiftRight_eq_div_pow v 8]

theorem leValue_leBytes (n v : Nat) : leValue (leBytes n v) = v % 256 ^ n := by
  induction n generalizing v with
  | zero => rw [pow_zero, Nat.mod_one]; rfl
  | succ n ih =>
    rw [leBytes_succ, leValue, ih, BitVec.toNat_ofNat, pow_succ' 256 n]
    exact Nat.mod_mul.symm

theorem leBytes_leValue (bs : List Byte) : leBytes bs.length (leValue bs) = bs := by
  induction bs with
  | nil => rfl
  | cons b bs ih =>
    have hb := b.isLt
    have hlow : BitVec.ofNat 8 (b.toNat + 256 * leValue bs) = b := by
      apply BitVec.eq_of_toNat_eq
      rw [BitVec.toNat_ofNat]
      omega
    have hhigh : (b.toNat + 256 * leValue bs) / 256 = leValue bs := by omega
    rw [List.length_cons, leBytes_succ, leValue, hlow, hhigh, ih]

/-- The first byte is the lowest. -/
theorem ofNat_leValue_cons (n : Nat) (b : Byte) (bs : List Byte) :
    BitVec.ofNat (n + 8) (leValue (b :: bs)) = BitVec.ofNat n (leValue bs) ++ b := by
  have hb := b.isLt
  have hlow : (b.toNat + 256 * leValue bs) % 2 ^ 8 = b.toNat := by omega
  have hhigh : (b.toNat + 256 * leValue bs) / 2 ^ 8 = leValue bs := by omega
  apply BitVec.eq_of_toNat_eq
  rw [BitVec.toNat_append, ← Nat.shiftLeft_add_eq_or_of_lt hb, Nat.shiftLeft_eq, BitVec.toNat_ofNat, BitVec.toNat_ofNat,
    leValue, pow_add, Nat.mul_comm (2 ^ n), Nat.mod_mul, hlow, hhigh, Nat.mul_comm, Nat.add_comm]

/-- `DEVID` as its eight bytes in the header (30_encoding.md R71). -/
theorem devid_eq_append (s : State) : BitVec.ofNat 64 (leValue (s.fbRange 4 8)) =
    s.fbByte 11 ++ s.fbByte 10 ++ s.fbByte 9 ++ s.fbByte 8 ++ s.fbByte 7 ++ s.fbByte 6 ++ s.fbByte 5 ++ s.fbByte 4 := by
  have hrange : s.fbRange 4 8 = [s.fbByte 4, s.fbByte 5, s.fbByte 6, s.fbByte 7, s.fbByte 8, s.fbByte 9, s.fbByte 10,
    s.fbByte 11] := rfl
  have hlast (b : Byte) : BitVec.ofNat 8 (leValue [b]) = b := BitVec.ofNat_toNat 8 b
  rw [hrange, ofNat_leValue_cons 56, ofNat_leValue_cons 48, ofNat_leValue_cons 40, ofNat_leValue_cons 32,
    ofNat_leValue_cons 24, ofNat_leValue_cons 16, ofNat_leValue_cons 8, hlast]

/-! ### The entries of an accepted frame -/

/-- The records fill their entries: each has as many payload bytes as it states, and they fit. -/
def PayloadsFit (rs : List Rec) : Prop := ∀ r ∈ rs, r.payload.length = r.plen.toNat ∧ r.plen.toNat ≤ 236

section
variable {s : State} {rs : List Rec} {k j : Nat}

theorem accepted_fields (hk : k < rs.length) : (accepted s rs).ptSI k = rs[k].si ∧
    (accepted s rs).ptCMD k = rs[k].cmd ∧ (accepted s rs).ptPLEN k = rs[k].plen := by
  obtain ⟨hsi, hcmd, hplen⟩ := commitRecords_peek 0 rs s.pt k
  have hentry : 0 ≤ k ∧ k - 0 < rs.length := ⟨Nat.zero_le k, hk⟩
  rw [dif_pos hentry] at hsi hcmd hplen
  simp only [State.ptSI, State.ptCMD, State.ptPLEN, accepted, hsi, hcmd, hplen, Option.getD_some, Nat.sub_zero,
    and_self]

theorem accepted_fields_beyond (hk : rs.length ≤ k) : (accepted s rs).ptSI k = s.ptSI k ∧
    (accepted s rs).ptCMD k = s.ptCMD k ∧ (accepted s rs).ptPLEN k = s.ptPLEN k := by
  obtain ⟨hsi, hcmd, hplen⟩ := commitRecords_peek 0 rs s.pt k
  rw [dif_neg (by omega)] at hsi hcmd hplen
  simp only [State.ptSI, State.ptCMD, State.ptPLEN, accepted, hsi, hcmd, hplen, and_self]

theorem accepted_ptByte (hfit : PayloadsFit rs) (hk : k < rs.length) (hj : j < rs[k].payload.length) :
    (accepted s rs).ptByte Config.spec k j = rs[k].payload[j] := by
  obtain ⟨hlen, hplen⟩ := hfit _ (List.getElem_mem hk)
  have hpeek := commitRecords_payload 0 rs s.pt (fun r hr => (hfit r hr).1.trans_le (hfit r hr).2) k j (by omega)
  rw [dif_pos ⟨⟨Nat.zero_le k, hk⟩, hj⟩] at hpeek
  exact congrArg (Option.getD · (Config.unspecPayload s.epoch k j)) hpeek

theorem accepted_ptByte_beyond (hfit : PayloadsFit rs) (hj : j < 236)
    (hbeyond : ∀ h : k < rs.length, rs[k].plen.toNat ≤ j) :
    (accepted s rs).ptByte Config.spec k j = s.ptByte Config.spec k j := by
  have hpeek := commitRecords_payload 0 rs s.pt (fun r hr => (hfit r hr).1.trans_le (hfit r hr).2) k j hj
  rw [dif_neg] at hpeek
  · exact congrArg (Option.getD · (Config.unspecPayload s.epoch k j)) hpeek
  · rintro ⟨⟨_, hk⟩, hin⟩
    have hlen := (hfit _ (List.getElem_mem hk)).1
    have hge := hbeyond hk
    simp only [Nat.sub_zero] at hin hlen
    omega

theorem accepted_ptPayload (hfit : PayloadsFit rs) (hk : k < rs.length) :
    (accepted s rs).ptPayload Config.spec k rs[k].plen.toNat = rs[k].payload := by
  refine List.ext_getElem ?_ fun j hj hj' => ?_
  · rw [ptPayload_length, (hfit _ (List.getElem_mem hk)).1]
  · rw [ptPayload_getElem, accepted_ptByte hfit hk hj']

theorem accepted_recordOf (hfit : PayloadsFit rs) (hk : k < rs.length) : recordOf (accepted s rs) k = rs[k] := by
  obtain ⟨hsi, hcmd, hplen⟩ := accepted_fields (s := s) hk
  rw [recordOf, hsi, hcmd, hplen, accepted_ptPayload hfit hk]

theorem accepted_pcount (hlen : rs.length ≤ 60) : (accepted s rs).pcount.toNat = rs.length := by
  rw [accepted, BitVec.toNat_ofNat, Nat.mod_eq_of_lt (by omega)]

end

/-- Settles O16: a chain of records is accepted as it stands, and without one the walk overruns. -/
theorem decodeAcceptsExactlyRecordChains : Obligations.DecodeAcceptsExactlyRecordChains := by
  refine fun s h heq => ⟨fun rs hchain => ?accept, fun hnone => exec_decode_of_overrun h heq hnone⟩
  case accept =>
    have hfit : PayloadsFit rs := recordChain_payload hchain le_rfl (frameStop_le h)
    refine ⟨recordChain_length_le h hchain, accepted s rs, exec_decode_of_chain h heq hchain, ?registers,
      fun k hk => ?entry, fun k hk => accepted_fields_beyond hk,
      fun k j hj hbeyond => accepted_ptByte_beyond hfit hj hbeyond⟩
    case registers =>
      have hstatus : statusWord .ok (trailFlag s.flen.toNat (frameStop s)) false 0x2 =
          if frameStop s < s.flen.toNat then 0x0210 else 0x0200 := by
        by_cases htrail : frameStop s < s.flen.toNat
        · rw [if_pos htrail, trailFlag, decide_eq_true htrail]; rfl
        · rw [if_neg htrail, trailFlag, decide_eq_false htrail]; rfl
      rw [accepted, devid_eq_append, hstatus]
    case entry =>
      obtain ⟨hsi, hcmd, hplen⟩ := accepted_fields (s := s) hk
      exact ⟨hsi, hcmd, hplen, accepted_ptPayload hfit hk⟩

/-! ### The packets -/

/-- A record as a packet of device `d` (10_state.md R33). -/
def Rec.packet (r : Rec) (d : Word) : Packet where
  deviceIdentifier := d
  serviceIndex := r.si
  serviceCommand := r.cmd
  payload := r.payload

theorem packetAt_eq {s : State} {k : Nat} (h : (s.ptPLEN k).toNat ≤ 236) :
    packetAt Config.spec s k = (recordOf s k).packet s.devid := by
  rw [packetAt, payloadLength_of_legal s k h]
  rfl

/-- The packets of a state with legal `PCOUNT` and `PLEN`s are its entries, as records. -/
theorem packets_eq {s : State} {rs : List Rec} (hn : s.pcount.toNat = rs.length) (hlen : rs.length ≤ 60)
    (hrs : ∀ (k : Nat) (hk : k < rs.length), recordOf s k = rs[k]) (hplen : ∀ r ∈ rs, r.plen.toNat ≤ 236) :
    packets Config.spec s = rs.map (Rec.packet · s.devid) := by
  rw [packets, packetCount_of_legal s (by omega), hn]
  refine List.ext_getElem (by simp) fun k hk hk' => ?_
  rw [List.length_map] at hk'
  have hlegal : (s.ptPLEN k).toNat ≤ 236 := by
    have hr : s.ptPLEN k = rs[k].plen := congrArg Rec.plen (hrs k hk')
    rw [hr]
    exact hplen _ (List.getElem_mem hk')
  rw [List.getElem_map, List.getElem_map, List.getElem_range, packetAt_eq hlegal, hrs k hk']

theorem packets_accepted {s : State} {rs : List Rec} (hlen : rs.length ≤ 60) (hfit : PayloadsFit rs) :
    packets Config.spec (accepted s rs) = rs.map (Rec.packet · (accepted s rs).devid) :=
  packets_eq (accepted_pcount hlen) hlen (fun _ => accepted_recordOf hfit) fun r hr => (hfit r hr).2

theorem packets_decodeFail (s : State) (e : ErrCode) : packets Config.spec (decodeFail s e) = [] := rfl

/-! ### Trust, and who writes `PT` (R122) -/

theorem mayTrust_decodeFail (s : State) {e : ErrCode} (he : e ≠ .ok) : mayTrust (decodeFail s e) = false := by
  have hcode : (e.code == 0#4) = false := beq_eq_false_iff_ne.2 (mt ErrCode.code_eq_zero_iff.1 he)
  rw [mayTrust, decodeFail_err, hcode, Bool.and_false]

theorem mayTrust_accepted (s : State) (rs : List Rec) : mayTrust (accepted s rs) = true := by
  have hlastop : (accepted s rs).lastop = 0x2 := statusWord_lastop ..
  rw [mayTrust, accepted_err, hlastop]
  rfl

/-- Only DECODE and PIPE_OPEN_PACK write `PT`. -/
theorem exec_pt {i : Instr} {s t : State} (hdecode : i ≠ .decode) (hpack : i ≠ .pipeOpenPack)
    (h : exec i s = .next t) : t.pt = s.pt := by
  by_cases hi : i.format = .op4
  · obtain ⟨-, -, -, -, hpt, -⟩ := operationsWriteOnlyWhatTheyName i s t hi h
    exact hpt hdecode hpack
  · obtain ⟨j, w, hj, hrun⟩ := exec_wire_unmarshals hi
    rw [hrun] at h
    have hop : j.format = .op4 ∧ j ≠ .decode ∧ j ≠ .pipeOpenPack := by rcases hj with rfl | rfl <;> decide
    obtain ⟨-, -, -, -, hpt, -⟩ := operationsWriteOnlyWhatTheyName j _ t hop.1 h
    exact hpt hop.2.1 hop.2.2

/-- Settles O18: of the four ends of DECODE only the commit may be trusted. -/
theorem noPartialAcceptance : Obligations.NoPartialAcceptance := by
  refine ⟨fun s t ht => ?_, fun i s t => exec_pt⟩
  have failed {s : State} {e : ErrCode} {P : Prop} (he : e ≠ .ok) :
      (mayTrust (decodeFail s e) = false → (decodeFail s e).pcount = 0 ∧ packets Config.spec (decodeFail s e) = []) ∧
        (mayTrust (decodeFail s e) = true → P) :=
    ⟨fun _ => ⟨rfl, packets_decodeFail s e⟩, fun h => absurd ((mayTrust_decodeFail s he).symm.trans h) (by decide)⟩
  cases exec_decodeEnd ht with
  | badLengths e he => exact failed fun hok => decodeCheck_ne_some_ok s (hok ▸ he)
  | mismatch => exact failed (by decide)
  | overrun => exact failed (by decide)
  | accepted rs h heq hchain =>
    have hfit : PayloadsFit rs := recordChain_payload hchain le_rfl (frameStop_le h)
    exact ⟨fun hfalse => absurd ((mayTrust_accepted s rs).symm.trans hfalse) (by decide),
      fun _ => ⟨heq, rs, hchain, packets_accepted (recordChain_length_le h hchain) hfit⟩⟩

end Sys2Proof.Machine
end

section
/-! ## `TOO_MANY_PACKETS` cannot occur (40_frame_codec.md R118, 60_exceptions.md R200)

Only the record walk of DECODE can raise it, and none of the ends of DECODE (`DecodeEnd`) has it. The other operations
raise `BAD_OPERAND`, `MALFORMED_PAYLOAD`, `ILLEGAL_OP` or what the checks of ENCODE name. -/

namespace Sys2Proof.Machine

theorem ErrCode.code_ne_seven {e : ErrCode} (he : e ≠ .tooManyPackets) : e.code ≠ 7 := by
  cases e with
  | tooManyPackets => exact absurd rfl he
  | _ => decide

theorem raiseError_err_ne_seven (s : State) (op : BitVec 4) {e : ErrCode} (he : e ≠ .tooManyPackets) :
    (s.raiseError op e).err ≠ 7 :=
  raiseError_err s op e ▸ ErrCode.code_ne_seven he

theorem encodeCheck_ne_tooManyPackets (s : State) : encodeCheck Config.spec s ≠ some .tooManyPackets := by
  rw [encodeCheck_spec]
  split_ifs <;> decide

theorem encodeOp_err_ne_seven (s : State) : (encodeOp Config.spec s).err ≠ 7 := by
  rcases encodeOp_cases Config.spec s with ⟨e, he, h⟩ | ⟨-, m, x, -, -, h⟩ <;> rw [h]
  · exact raiseError_err_ne_seven _ _ fun hmany => encodeCheck_ne_tooManyPackets s (hmany ▸ he)
  · rw [finish_err]; decide

theorem makeRegOp_err_ne_seven (op : BitVec 4) (classBits : Half) (s : State) : (makeRegOp op classBits s).err ≠ 7 := by
  rcases makeRegOp_cases op classBits s with ⟨-, h⟩ | ⟨r, -, h⟩ <;> simp [h, ErrCode.code]

theorem decode_err_ne_seven {s t : State} (ht : exec .decode s = .next t) : t.err ≠ 7 := by
  cases exec_decodeEnd ht with
  | badLengths e he =>
    rcases decodeCheck_code he with rfl | rfl | rfl | rfl <;> exact raiseError_err_ne_seven _ _ (by decide)
  | mismatch | overrun => exact raiseError_err_ne_seven _ _ (by decide)
  | accepted rs => rw [accepted_err]; decide

/-- Outside ENCODE and DECODE an operation raises one fixed code, or none. -/
theorem exec_op_err_ne_seven {i : Instr} {s t : State} (hi : i.format = .op4) (h : exec i s = .next t) :
    t.err ≠ 7 := by
  cases i <;> cases h
  case nop => simp
  case encode => exact encodeOp_err_ne_seven s
  case decode => exact decode_err_ne_seven (s := s) rfl
  case crc => rcases crcOp_cases Config.spec s with ⟨-, h⟩ | ⟨x, -, -, h⟩ <;> simp [h, ErrCode.code]
  case cmdClassify => rcases classifyOp_cases Config.spec s with ⟨-, h⟩ | ⟨w, r, -, -, h⟩ <;> simp [h, ErrCode.code]
  case cmdMakeGet | cmdMakeSet => exact makeRegOp_err_ne_seven _ _ s
  case cmdMakeEvent => rcases makeEventOp_cases Config.spec s with ⟨-, h⟩ | ⟨e, -, h⟩ <;> simp [h, ErrCode.code]
  case pipeCmdPack => rcases pipePackOp_cases Config.spec s with ⟨-, h⟩ | ⟨p, f, -, -, h⟩ <;> simp [h, ErrCode.code]
  case pipeCmdUnpack => rcases pipeUnpackOp_cases Config.spec s with ⟨-, h⟩ | ⟨w, -, h⟩ <;> simp [h, ErrCode.code]
  case pipeOpenPack => rcases openPackOp_cases Config.spec s with ⟨-, h⟩ | ⟨p, k, -, -, h⟩ <;> simp [h, ErrCode.code]
  case pipeOpenUnpack =>
    rcases openUnpackOp_cases Config.spec s with ⟨-, h⟩ | ⟨k, -, -, h⟩ | ⟨k, d, p, r, -, -, -, -, -, h⟩ <;>
      simp [h, ErrCode.code]
  case illegalOp op => exact raiseError_err_ne_seven _ _ (by decide)
  all_goals cases hi

/-- Settles O19: a wire-encoding row runs an operation of the unit. -/
theorem tooManyPacketsCannotOccur : Obligations.TooManyPacketsCannotOccur := by
  intro i s t h
  by_cases hi : i.format = .op4
  · exact exec_op_err_ne_seven hi h
  · obtain ⟨j, w, hj, hrun⟩ := exec_wire hi
    exact exec_op_err_ne_seven hj ((hrun s).symm.trans h)

end Sys2Proof.Machine
end

section
/-! ## The round trips (40_frame_codec.md R121)

Both ways pass through `HoldsRecords`: ENCODE leaves a buffer that holds the records of the packets, and such a buffer
is a chain of exactly these records (`HoldsRecords.chain`); DECODE of a chain makes the entries records that the buffer
holds (`TightFrame.holdsRecords`), and two buffers that hold the same records agree in every byte of the record area
(`HoldsRecords.fbByte_eq`). -/

namespace Sys2Proof.Machine

/-! ### Held records and chains -/

/-- Every record lies before `end`. -/
theorem recordOff_plen_le_end (s : State) {n k : Nat} (hk : k < n) :
    recordOff Config.spec s k + 4 + (s.ptPLEN k).toNat ≤ recordsEnd Config.spec s n := by
  have hlen := recordBytes_length s n k
  have hend := recordBytes_end_le s hk
  have hnext := recordOff_succ_ge s k
  split at hlen <;> omega

/-- Behind the last record there is at most padding. -/
theorem recordsEnd_le_recordOff (s : State) {n : Nat} (hn : 0 < n) :
    recordsEnd Config.spec s n ≤ recordOff Config.spec s n := by
  obtain ⟨k, rfl⟩ := Nat.exists_eq_succ_of_ne_zero hn.ne'
  exact recordOff_succ_ge s k

/-- A buffer that holds the records of the packets is a chain of them. -/
theorem HoldsRecords.chain {f s : State} {n : Nat} (h : HoldsRecords f s n) (hn : 0 < n) :
    recordChain f (recordsEnd Config.spec s n) 12 ((List.range n).map (recordOf s)) := by
  have fromRecord : ∀ m j, j + m = n →
      recordChain f (recordsEnd Config.spec s n) (recordOff Config.spec s j) ((List.range' j m).map (recordOf s)) := by
    intro m
    induction m with
    | zero => rintro j rfl; exact recordsEnd_le_recordOff s hn
    | succ m ih =>
      intro j hj
      have hend := recordOff_plen_le_end s (show j < n by omega)
      obtain ⟨hplen, hsi, hcmd, hpayload⟩ := (recordAt_fields f _ _).1 (h.record j (by omega)).symm
      exact ⟨by omega, hend, hplen, hsi, hcmd, hpayload, ih (j + 1) (by omega)⟩
  rw [List.range_eq_range']
  exact fromRecord n 0 (Nat.zero_add n)

/-- A chain whose records are the entries of `s` has them at their offsets. -/
theorem recordAt_of_chain {f s : State} {stop j : Nat} {rs : List Rec}
    (h : recordChain f stop (recordOff Config.spec s j) rs)
    (hrs : ∀ (i : Nat) (hi : i < rs.length), recordOf s (j + i) = rs[i]) (i : Nat) (hi : i < rs.length) :
    recordAt Config.spec f (recordOff Config.spec s (j + i)) = recordOf s (j + i) := by
  induction rs generalizing j i with
  | nil => cases hi
  | cons r rs ih =>
    obtain ⟨-, -, hplen, hsi, hcmd, hpayload, hrest⟩ := h
    have hr : recordOf s j = r := hrs 0 (Nat.succ_pos _)
    cases i with
    | zero => exact ((recordAt_fields f _ r).2 ⟨hplen, hsi, hcmd, hpayload⟩).symm.trans hr.symm
    | succ i =>
      have hoff : recordOff Config.spec s j + (4 + r.plen.toNat + 3) / 4 * 4 = recordOff Config.spec s (j + 1) := by
        rw [← hr]; rfl
      rw [hoff] at hrest
      rw [← Nat.add_assoc, Nat.add_right_comm]
      refine ih hrest (fun i hi => ?_) i (Nat.lt_of_succ_lt_succ hi)
      rw [Nat.add_right_comm]
      exact hrs (i + 1) (Nat.succ_lt_succ hi)

/-- Two buffers that hold the same records agree in every byte of the record area. -/
theorem HoldsRecords.fbByte_eq {f f' s : State} {n a : Nat} (h : HoldsRecords f s n) (h' : HoldsRecords f' s n)
    (hn : 0 < n) (hlo : 12 ≤ a) (hhi : a < recordsEnd Config.spec s n) : f.fbByte a = f'.fbByte a := by
  obtain ⟨k, i, hk, hi, rfl⟩ := exists_record s hlo hhi hn
  obtain ⟨hplen, hsi, hcmdLow, hcmdHigh, hpayload⟩ := recordAt_eq_recordOf_iff.1 (h.record k hk)
  obtain ⟨hplen', hsi', hcmdLow', hcmdHigh', hpayload'⟩ := recordAt_eq_recordOf_iff.1 (h'.record k hk)
  by_cases hin : i < 4 + (s.ptPLEN k).toNat
  case pos =>
    match i with
    | 0 => exact hplen.trans hplen'.symm
    | 1 => exact hsi.trans hsi'.symm
    | 2 => exact hcmdLow.trans hcmdLow'.symm
    | 3 => exact hcmdHigh.trans hcmdHigh'.symm
    | j + 4 =>
      rw [Nat.add_comm j, ← Nat.add_assoc, hpayload j (by omega), hpayload' j (by omega)]
  case neg =>
    rw [recordBytes_length] at hi
    split at hi
    · next hnext => rw [h.padding k _ hnext (by omega) (by omega), h'.padding k _ hnext (by omega) (by omega)]
    · exact absurd hi hin

/-! ### DECODE after ENCODE -/

/-- What ENCODE produces passes the length checks and the CRC check of DECODE. -/
theorem encodeOp_frame {s : State} (h : encodeCheck Config.spec s = none) :
    lengthsOk (encodeOp Config.spec s) ∧
      frameStop (encodeOp Config.spec s) = recordsEnd Config.spec s s.pcount.toNat ∧
      (encodeOp Config.spec s).flen.toNat = recordsEnd Config.spec s s.pcount.toNat ∧
      computedCrc (encodeOp Config.spec s) = storedCrc (encodeOp Config.spec s) := by
  obtain ⟨-, -, -, hsize⟩ := encodeCheck_eq_none.1 h
  obtain ⟨hflen, hbyte⟩ := encodeOp_flen_and_size h
  have hge := recordsEnd_ge s s.pcount.toNat
  have hend := recordsEnd_eq_size s s.pcount.toNat
  have hsizeByte := congrArg BitVec.toNat hbyte
  have hlen := congrArg BitVec.toNat hflen
  simp only [spec_maxFrameData, BitVec.toNat_ofNat] at hsize hsizeByte hlen
  have hstop : frameStop (encodeOp Config.spec s) = recordsEnd Config.spec s s.pcount.toNat := by
    rw [frameStop]; omega
  refine ⟨⟨by omega, by omega, by omega, by omega, by omega⟩, hstop, by omega, ?crc⟩
  case crc =>
    obtain ⟨hlow, hhigh⟩ := encodeOp_crcField h
    rw [computedCrc, storedCrc, hstop, ← encodeOp_crc h, hlow, hhigh, append_bytes]

/-- The value of the eight bytes of `DEVID` in a produced frame. -/
theorem encodeOp_devid {s : State} (h : encodeCheck Config.spec s = none) :
    BitVec.ofNat 64 (leValue ((encodeOp Config.spec s).fbRange 4 8)) = s.devid := by
  obtain ⟨-, -, hdevid⟩ := encodeOp_header h
  have hbytes : (encodeOp Config.spec s).fbRange 4 8 = leBytes 8 s.devid.toNat := by
    refine List.ext_getElem (by simp) fun i hi hi' => ?_
    rw [fbRange_getElem, leBytes_getElem_bitVec, hdevid i (by simpa using hi)]
  have hlt : s.devid.toNat < 256 ^ 8 := s.devid.isLt.trans_eq (by norm_num)
  rw [hbytes, leValue_leBytes, Nat.mod_eq_of_lt hlt, BitVec.ofNat_toNat, BitVec.setWidth_eq]

theorem status_accepted_of_whole {s : State} (rs : List Rec) (h : s.flen.toNat ≤ frameStop s) :
    (accepted s rs).status = 0x0200 := by
  rw [accepted, trailFlag, decide_eq_false (not_lt_of_ge h)]
  rfl

/-- Settles O21: the buffer holds the records of the packets, so DECODE accepts just these. -/
theorem decodeAfterEncodeGivesThePackets : Obligations.DecodeAfterEncodeGivesThePackets := by
  intro s t ht herr
  cases ht
  have hnone := encodeCheck_eq_none_of_err herr
  obtain ⟨hn, hpos, -, -⟩ := encodeCheck_eq_none.1 hnone
  obtain ⟨hlengths, hstop, hflen, hcrc⟩ := encodeOp_frame hnone
  obtain ⟨-, hflags, -⟩ := encodeOp_header hnone
  have hchain := (encodeOp_holdsRecords hnone).chain (by omega)
  rw [← hstop] at hchain
  have hfit : PayloadsFit _ := recordChain_payload hchain le_rfl (frameStop_le hlengths)
  have hlen : ((List.range s.pcount.toNat).map (recordOf s)).length = s.pcount.toNat := by simp
  refine ⟨_, exec_decode_of_chain hlengths hcrc hchain, status_accepted_of_whole _ (by omega), encodeOp_devid hnone,
    hflags, ?count, ?packets⟩
  case count => rw [accepted, hlen, BitVec.ofNat_toNat, BitVec.setWidth_eq]
  case packets =>
    have hdevid : (accepted (encodeOp Config.spec s) ((List.range s.pcount.toNat).map (recordOf s))).devid = s.devid :=
      encodeOp_devid hnone
    rw [packets_accepted (recordChain_length_le hlengths hchain) hfit, hdevid]
    have hentries (k : Nat) (hk : k < ((List.range s.pcount.toNat).map (recordOf s)).length) :
        recordOf s k = ((List.range s.pcount.toNat).map (recordOf s))[k] := by
      rw [List.getElem_map, List.getElem_range]
    exact (packets_eq hlen.symm (recordChain_length_le hlengths hchain) hentries fun r hr => (hfit r hr).2).symm

/-! ### ENCODE after DECODE -/

theorem leValue_lt (bs : List Byte) : leValue bs < 256 ^ bs.length := by
  have hmod := leValue_leBytes bs.length (leValue bs)
  rw [leBytes_leValue] at hmod
  rw [hmod]
  exact Nat.mod_lt _ (by positivity)

/-- Byte `i` of `DEVID` as DECODE has read it. -/
theorem extractLsb'_devid (s : State) {i : Nat} (hi : i < 8) :
    (BitVec.ofNat 64 (leValue (s.fbRange 4 8))).extractLsb' (8 * i) 8 = s.fbByte (4 + i) := by
  have hvalue : (BitVec.ofNat 64 (leValue (s.fbRange 4 8))).toNat = leValue (s.fbRange 4 8) := by
    have hlt := leValue_lt (s.fbRange 4 8)
    rw [fbRange_length] at hlt
    rw [BitVec.toNat_ofNat, Nat.mod_eq_of_lt (hlt.trans_eq (by norm_num))]
  have hbytes : leBytes 8 (leValue (s.fbRange 4 8)) = s.fbRange 4 8 := leBytes_leValue (s.fbRange 4 8)
  rw [← leBytes_getElem_bitVec 8 _ i (by rwa [leBytes_length])]
  simp only [hvalue, hbytes, fbRange_getElem]

/-- A frame without trailing bytes, with zero padding between its records and none after the last. -/
structure TightFrame (s : State) (rs : List Rec) : Prop where
  lengths : lengthsOk s
  crc : computedCrc s = storedCrc s
  chain : recordChain s (frameStop s) 12 rs
  whole : s.flen.toNat = frameStop s
  padding : ∀ k p, k + 1 < rs.length →
    recordOff Config.spec (accepted s rs) k + 4 + ((accepted s rs).ptPLEN k).toNat ≤ p →
    p < recordOff Config.spec (accepted s rs) (k + 1) → s.fbByte p = 0
  size : recordsSize Config.spec (accepted s rs) rs.length = (s.fbByte 2).toNat

namespace TightFrame

variable {s : State} {rs : List Rec} (h : TightFrame s rs)
include h

theorem pcount : (accepted s rs).pcount.toNat = rs.length := accepted_pcount (recordChain_length_le h.lengths h.chain)

theorem payloadsFit : PayloadsFit rs := recordChain_payload h.chain le_rfl (frameStop_le h.lengths)

theorem length_pos : 0 < rs.length := by
  obtain ⟨-, -, -, -, hsize⟩ := h.lengths
  cases rs with
  | nil =>
    have hstop : frameStop s ≤ 12 := h.chain
    rw [frameStop] at hstop
    omega
  | cons r rs => exact Nat.succ_pos _

theorem recordsEnd_eq : recordsEnd Config.spec (accepted s rs) rs.length = frameStop s := by
  rw [recordsEnd_eq_size, h.size, frameStop, Nat.add_comm]

/-- The buffer already holds the records that ENCODE is about to write. -/
theorem holdsRecords : HoldsRecords s (accepted s rs) rs.length where
  record k hk := by
    have hrec := recordAt_of_chain (s := accepted s rs) (j := 0) h.chain
      (fun i hi => by rw [Nat.zero_add]; exact accepted_recordOf h.payloadsFit hi) k hk
    rwa [Nat.zero_add] at hrec
  padding := h.padding

theorem encodeCheck_eq : encodeCheck Config.spec (accepted s rs) = none := by
  obtain ⟨-, -, hmax, -, -⟩ := h.lengths
  have hpos := h.length_pos
  refine encodeCheck_eq_none.2 ?_
  rw [h.pcount]
  refine ⟨recordChain_length_le h.lengths h.chain, by omega, fun k hk => ?_, h.size.trans_le hmax⟩
  obtain ⟨-, -, hplen⟩ := accepted_fields (s := s) hk
  rw [hplen]
  exact (h.payloadsFit _ (List.getElem_mem hk)).2

theorem fbByte_afterCrc {a : Nat} (hlo : 2 ≤ a) (hhi : a < frameStop s) :
    (encodeOp Config.spec (accepted s rs)).fbByte a = s.fbByte a := by
  obtain ⟨hsize, hflags, hdevid⟩ := encodeOp_header h.encodeCheck_eq
  by_cases h12 : 12 ≤ a
  · have hholds := encodeOp_holdsRecords h.encodeCheck_eq
    rw [h.pcount] at hholds
    exact hholds.fbByte_eq h.holdsRecords h.length_pos h12 (h.recordsEnd_eq.symm ▸ hhi)
  · obtain rfl | rfl | ⟨i, hi, rfl⟩ : a = 2 ∨ a = 3 ∨ ∃ i < 8, a = 4 + i := by
      by_cases ha : a < 4
      · omega
      · exact .inr (.inr ⟨a - 4, by omega, by omega⟩)
    · rw [hsize, h.pcount, h.size, BitVec.ofNat_toNat, BitVec.setWidth_eq]
    · exact hflags
    · exact (hdevid i hi).trans (extractLsb'_devid s hi)

theorem encodeOp_crc_eq : (encodeOp Config.spec (accepted s rs)).crc = storedCrc s := by
  have hcovered : (encodeOp Config.spec (accepted s rs)).fbRange 2 (frameStop s - 2) = s.fbRange 2 (frameStop s - 2) :=
    List.map_congr_left fun i hi => by
      have hin := List.mem_range.1 hi
      exact h.fbByte_afterCrc (by omega) (by omega)
  rw [encodeOp_crc h.encodeCheck_eq, h.pcount, h.recordsEnd_eq, hcovered, ← h.crc, computedCrc]

theorem fbByte_eq {a : Nat} (ha : a < frameStop s) :
    (encodeOp Config.spec (accepted s rs)).fbByte a = s.fbByte a := by
  obtain ⟨hlow, hhigh⟩ := encodeOp_crcField h.encodeCheck_eq
  rw [h.encodeOp_crc_eq, storedCrc] at hlow hhigh
  match a with
  | 0 => exact hlow.trans BitVec.extractLsb'_append_eq_right
  | 1 => exact hhigh.trans BitVec.extractLsb'_append_eq_left
  | a + 2 => exact h.fbByte_afterCrc (by omega) ha

theorem frameOf_encodeOp : frameOf (encodeOp Config.spec (accepted s rs)) = frameOf s := by
  obtain ⟨-, -, hflen, -⟩ := encodeOp_frame h.encodeCheck_eq
  rw [frameOf, frameOf, hflen, h.pcount, h.recordsEnd_eq, h.whole]
  refine List.map_congr_left fun i hi => ?_
  rw [Nat.zero_add]
  exact h.fbByte_eq (List.mem_range.1 hi)

end TightFrame

/-- Settles O22: `STATUS` 0x0200 means the commit of a frame without trailing bytes, and the other premises make it
tight. -/
theorem encodeAfterDecodeGivesTheFrame : Obligations.EncodeAfterDecodeGivesTheFrame := by
  intro s t ht hstatus hpadding hsize
  have herr : t.err = 0 := by rw [State.err, hstatus]; rfl
  cases exec_decodeEnd ht with
  | badLengths e he => exact absurd herr (raiseError_err_ne_zero _ _ fun hok => decodeCheck_ne_some_ok s (hok ▸ he))
  | mismatch | overrun => exact absurd herr (raiseError_err_ne_zero _ _ (by decide))
  | accepted rs hlengths hcrc hchain =>
    have hcount : (accepted s rs).pcount.toNat = rs.length := accepted_pcount (recordChain_length_le hlengths hchain)
    have hwhole : s.flen.toNat = frameStop s := by
      have htrail : (accepted s rs).status.getLsbD 4 = trailFlag s.flen.toNat (frameStop s) := statusWord_trail ..
      rw [hstatus] at htrail
      have hle : ¬frameStop s < s.flen.toNat := of_decide_eq_false htrail.symm
      obtain ⟨-, -, -, hge, -⟩ := hlengths
      rw [frameStop] at *
      omega
    rw [hcount] at hpadding hsize
    have htight : TightFrame s rs := ⟨hlengths, hcrc, hchain, hwhole, hpadding, hsize⟩
    obtain ⟨x, -, hend⟩ := encodeOp_of_check htight.encodeCheck_eq
    exact ⟨_, rfl, by rw [hend]; rfl, htight.frameOf_encodeOp⟩

end Sys2Proof.Machine
end

section
/-! ## Single-bit flips of a produced frame (40_frame_codec.md R102, log 12)

A flip outside the `size` byte changes the stored CRC or one byte that the CRC covers, and then the two differ
(`crc16_ne_of_byte_ne`). A flip in the `size` byte moves the end of the covered bytes, and there the CRC gives no such
guarantee: `sizeFlipPackets` is a counterexample to the derived sentence of R102. -/

namespace Sys2Proof.Machine

/-! ### Flips outside the `size` byte -/

section
variable (s : State) (a bit : Nat)

theorem fbByte_flipBit (b : Nat) :
    (flipBit s a bit).fbByte b = if b = a then s.fbByte a ^^^ (1#8 <<< bit) else s.fbByte b :=
  fbByte_setFb_poke s a b _

@[simp] theorem flipBit_flen : (flipBit s a bit).flen = s.flen := rfl

variable {a bit}

theorem fbByte_flipBit_ne {b : Nat} (h : b ≠ a) : (flipBit s a bit).fbByte b = s.fbByte b :=
  (fbByte_flipBit s a bit b).trans (if_neg h)

theorem fbByte_flipBit_self (h : bit < 8) : (flipBit s a bit).fbByte a ≠ s.fbByte a := by
  have hmask : 1#8 <<< bit ≠ 0#8 := by revert bit; decide
  rw [fbByte_flipBit, if_pos rfl]
  exact fun heq => hmask ((BitVec.xor_right_inj _).1 (heq.trans BitVec.xor_zero.symm))

theorem fbRange_flipBit {b n : Nat} (h : a < b ∨ b + n ≤ a) : (flipBit s a bit).fbRange b n = s.fbRange b n :=
  List.map_congr_left fun i hi => fbByte_flipBit_ne s (by have := List.mem_range.1 hi; omega)

theorem fbRange_split (b m n : Nat) :
    s.fbRange b (m + (n + 1)) = s.fbRange b m ++ s.fbByte (b + m) :: s.fbRange (b + m + 1) n := by
  simp [State.fbRange, List.range_add, List.range_succ_eq_map, Function.comp_def, Nat.add_assoc, Nat.add_comm 1]

variable {s} (hbit : bit < 8) (ha2 : a ≠ 2)
include ha2

theorem frameStop_flipBit : frameStop (flipBit s a bit) = frameStop s := by
  rw [frameStop, frameStop, fbByte_flipBit_ne s ha2.symm]

theorem lengthsOk_flipBit (h : lengthsOk s) : lengthsOk (flipBit s a bit) := by
  rwa [lengthsOk, fbByte_flipBit_ne s ha2.symm, flipBit_flen]

include hbit

/-- A flip in the CRC field changes the stored CRC only. -/
theorem flipBit_crcField (ha : a < 2) :
    computedCrc (flipBit s a bit) = computedCrc s ∧ storedCrc (flipBit s a bit) ≠ storedCrc s := by
  refine ⟨?computed, fun heq => ?stored⟩
  case computed => rw [computedCrc, frameStop_flipBit ha2, fbRange_flipBit s (.inl ha), computedCrc]
  case stored =>
    have hlow := congrArg (BitVec.extractLsb' 0 8) heq
    have hhigh := congrArg (BitVec.extractLsb' 8 8) heq
    simp only [storedCrc, BitVec.extractLsb'_append_eq_right, BitVec.extractLsb'_append_eq_left] at hlow hhigh
    obtain rfl | rfl : a = 0 ∨ a = 1 := by omega
    · exact fbByte_flipBit_self s hbit hlow
    · exact fbByte_flipBit_self s hbit hhigh

/-- A flip behind the `size` byte changes the computed CRC only. -/
theorem flipBit_covered (ha : 2 < a) (hstop : a < frameStop s) :
    computedCrc (flipBit s a bit) ≠ computedCrc s ∧ storedCrc (flipBit s a bit) = storedCrc s := by
  refine ⟨?computed, ?stored⟩
  case computed =>
    have hlen : frameStop s - 2 = (a - 2) + ((frameStop s - a - 1) + 1) := by omega
    rw [computedCrc, computedCrc, frameStop_flipBit ha2, hlen, fbRange_split, fbRange_split,
      fbRange_flipBit s (.inr (by omega)), fbRange_flipBit s (.inl (by omega)), Nat.add_sub_cancel' (by omega)]
    exact crc16_ne_of_byte_ne (fbByte_flipBit_self s hbit) _ _
  case stored =>
    rw [storedCrc, storedCrc, fbByte_flipBit_ne s (by omega), fbByte_flipBit_ne s (by omega)]

end

/-- Settles O23: of the two CRCs that agreed, the flip changes one. -/
theorem bitFlipOutsideSizeIsDetected : Obligations.BitFlipOutsideSizeIsDetected := by
  intro s t a bit ht herr ha ha2 hbit
  cases ht
  obtain ⟨hlengths, hstop, hflen, hcrc⟩ := encodeOp_frame (encodeCheck_eq_none_of_err herr)
  have hne : computedCrc (flipBit (encodeOp Config.spec s) a bit) ≠
      storedCrc (flipBit (encodeOp Config.spec s) a bit) := by
    by_cases hfield : a < 2
    · obtain ⟨hcomputed, hstored⟩ := flipBit_crcField (s := encodeOp Config.spec s) hbit ha2 hfield
      rw [hcomputed, hcrc]
      exact hstored.symm
    · obtain ⟨hcomputed, hstored⟩ := flipBit_covered (s := encodeOp Config.spec s) hbit ha2 (by omega) (by omega)
      rwa [hstored, ← hcrc]
  exact ⟨_, exec_decode_of_mismatch (lengthsOk_flipBit ha2 hlengths) hne, decodeFail_err _ _⟩

/-! ### A flip in the `size` byte that DECODE accepts -/

/-- Three packets without payload, so `size` is 12; the last one's command code makes the CRC of the frame the one of
its first two records under a `size` of 8. -/
def sizeFlipPackets : State :=
  { State.reset with
    pcount := 3
    pt := { si := [(0, 0), (1, 0), (2, 0)]
            cmd := [(0, 0), (1, 0), (2, 0x42E6)]
            plen := [(0, 0), (1, 0), (2, 0)]
            payload := [] } }

/-- Settles O24: bit 2 of `size` turns 12 into 8. -/
theorem sizeByteFlipCanBeAccepted : Obligations.SizeByteFlipCanBeAccepted := by
  refine ⟨sizeFlipPackets, encodeOp Config.spec sizeFlipPackets,
    decodeFrame Config.spec (flipBit (encodeOp Config.spec sizeFlipPackets) 2 2), 2, rfl, ?produced, by decide, rfl,
    ?accepted⟩
  all_goals decide +kernel

end Sys2Proof.Machine
end

section
/-! ## Command codes (30_encoding.md R74, R75; 41_command_codes.md R130 to R137)

CMD_CLASSIFY splits the codes into ranges (`classify_of_range`). A code that CMD_MAKE_GET, CMD_MAKE_SET or
CMD_MAKE_EVENT makes is the bit pattern of an opcode table row, for which `classify_encodeWord` has the class. -/

namespace Sys2Proof.Machine

/-! ### Codes as bit patterns -/

/-- Below the zeros of a high part, `|||` puts the low part in place. -/
theorem append_zero_or_setWidth {m n : Nat} (x : BitVec m) (y : BitVec n) :
    (x ++ 0#n) ||| y.setWidth (m + n) = x ++ y := by
  have hlt : y.toNat < 2 ^ (m + n) := y.isLt.trans_le (Nat.pow_le_pow_right (by decide) (Nat.le_add_left n m))
  apply BitVec.eq_of_toNat_eq
  rw [BitVec.toNat_or, BitVec.toNat_append, BitVec.toNat_append, BitVec.toNat_setWidth, Nat.mod_eq_of_lt hlt,
    BitVec.toNat_ofNat, Nat.zero_mod, Nat.or_zero]

theorem toNat_append_eq_mul_add {m n : Nat} (x : BitVec m) (y : BitVec n) :
    (x ++ y).toNat = x.toNat * 2 ^ n + y.toNat := by
  rw [BitVec.toNat_append, ← Nat.shiftLeft_add_eq_or_of_lt y.isLt, Nat.shiftLeft_eq]

/-- The code CMD_MAKE_EVENT makes (R135) has the fields of an EVENT row (30_encoding.md R74). -/
theorem eventCode_eq_append (n : BitVec 7) (e : BitVec 8) :
    0x8000#16 ||| (n.setWidth 16 <<< 8) ||| e.setWidth 16 = 1#1 ++ n ++ e := by
  have hhigh : 0x8000#16 ||| (n.setWidth 16 <<< 8) = (1#1 ++ n) ++ 0#8 := by revert n; decide
  rw [hhigh]
  exact append_zero_or_setWidth (1#1 ++ n) e

theorem toNat_eventCode (n : BitVec 7) (e : BitVec 8) :
    (0x8000#16 ||| (n.setWidth 16 <<< 8) ||| e.setWidth 16).toNat = 0x8000 + n.toNat * 256 + e.toNat := by
  rw [eventCode_eq_append, toNat_append_eq_mul_add, toNat_append_eq_mul_add, BitVec.toNat_ofNat]
  omega

/-- Settles O30: each code is the word of a row, and `classify_encodeWord` reads the class off the row. -/
theorem classifyUndoesMake : Obligations.ClassifyUndoesMake := by
  refine ⟨fun r => ?getReg, fun r => ?setReg, fun e n => ?event⟩
  case getReg =>
    have hcode : 0x1000#16 ||| r.setWidth 16 = encodeWord (.serviceCommandGetReg r) := append_zero_or_setWidth 1#4 r
    rw [hcode]
    exact classify_encodeWord rfl
  case setReg =>
    have hcode : 0x4000#16 ||| r.setWidth 16 = encodeWord (.serviceCommandSetReg 0 r) :=
      append_zero_or_setWidth (1#2 ++ 0#2) r
    rw [hcode]
    exact classify_encodeWord rfl
  case event =>
    rw [eventCode_eq_append]
    exact classify_encodeWord (i := .serviceCommandEvent n e) rfl

/-! ### Classes as ranges (R130) -/

/-- The SET_REG test (R130) as a range. -/
theorem and_setMask_eq_iff (code : Half) :
    code &&& 0xC000#16 = 0x4000#16 ↔ 0x4000 ≤ code.toNat ∧ code.toNat < 0x8000 := by
  have hmask : (code &&& 0xC000#16).toNat = code.toNat / 2 ^ 14 * 2 ^ 14 := toNat_and_highMask code 14
  rw [← BitVec.toNat_inj, hmask, show (0x4000#16).toNat = 0x4000 from rfl]
  omega

theorem classify_of_range (code : Half) : classify Config.spec code =
    if 0x8000 ≤ code.toNat then .event (code.extractLsb' 0 8) (code.extractLsb' 8 7)
    else if 0x4000 ≤ code.toNat ∧ code.toNat < 0x8000 then .setReg (code.extractLsb' 0 12)
    else if 0x1000 ≤ code.toNat ∧ code.toNat < 0x2000 then .getReg (code.extractLsb' 0 12)
    else .other := by
  have hget := and_classMask_eq_iff code 0x1000#16 (by decide)
  exact if_congr (and_eventFlag_ne_zero_iff code) rfl (if_congr (and_setMask_eq_iff code) rfl (if_congr hget rfl rfl))

/-! ### CMD_CLASSIFY (R132) -/

section
variable {s : State} (h : s.arg0.toNat < 0x10000)
include h

theorem toNat_arg0_half : (s.arg0.setWidth 16).toNat = s.arg0.toNat := by
  rw [BitVec.toNat_setWidth, Nat.mod_eq_of_lt h]

/-- A field of the code in `ARG0`, as CMD_CLASSIFY writes it to a `RES` register. -/
theorem codeField_eq (i n : Nat) :
    ((s.arg0.setWidth 16).extractLsb' i n).setWidth 64 = BitVec.ofNat 64 (s.arg0.toNat / 2 ^ i % 2 ^ n) := by
  apply BitVec.eq_of_toNat_eq
  rw [BitVec.toNat_setWidth, BitVec.extractLsb'_toNat, toNat_arg0_half h, Nat.shiftRight_eq_div_pow,
    BitVec.toNat_ofNat]

theorem registerField_eq :
    ((s.arg0.setWidth 16).extractLsb' 0 12).setWidth 64 = BitVec.ofNat 64 (s.arg0.toNat % 4096) := by
  rw [codeField_eq h, Nat.pow_zero, Nat.div_one]
  rfl

theorem exec_cmdClassify_of_triple {k : Classified} {f0 f1 f2 : Word}
    (hk : classify Config.spec (s.arg0.setWidth 16) = k) (ht : k.triple = (f0, f1, f2)) :
    exec .cmdClassify s = .next { s with res0 := f0, res1 := f1, res2 := f2, status := 0x0400 } :=
  congrArg Host.Outcome.next (classifyOp_eq_of_triple _ h (by rw [hk, ht]))

end

/-- Settles O25: each range of `ARG0` falls into its branch of `classify_of_range`. -/
theorem cmdClassifyResult : Obligations.CmdClassifyResult := by
  rintro s v rfl
  refine ⟨fun hlo hhi => ?event, fun hlo hhi => ?setReg, fun hlo hhi => ?getReg, fun hv => ?other, fun hv => ?wide⟩
  case event =>
    refine exec_cmdClassify_of_triple hhi ((classify_of_range _).trans (if_pos ?_)) ?_
    · rwa [toNat_arg0_half hhi]
    · rw [Classified.triple, codeField_eq hhi, codeField_eq hhi, Nat.pow_zero, Nat.div_one]
      rfl
  case setReg =>
    have h : s.arg0.toNat < 0x10000 := by omega
    refine exec_cmdClassify_of_triple h (k := .setReg ((s.arg0.setWidth 16).extractLsb' 0 12)) ?_ ?_
    · rw [classify_of_range, toNat_arg0_half h, if_neg (by omega), if_pos ⟨hlo, hhi⟩]
    · rw [Classified.triple, registerField_eq h, extractLsb'_setWidth_reg]
  case getReg =>
    have h : s.arg0.toNat < 0x10000 := by omega
    refine exec_cmdClassify_of_triple h (k := .getReg ((s.arg0.setWidth 16).extractLsb' 0 12)) ?_ ?_
    · rw [classify_of_range, toNat_arg0_half h, if_neg (by omega), if_neg (by omega), if_pos ⟨hlo, hhi⟩]
    · rw [Classified.triple, registerField_eq h, extractLsb'_setWidth_reg]
  case other =>
    have h : s.arg0.toNat < 0x10000 := by omega
    refine exec_cmdClassify_of_triple h (k := .other) ?_ rfl
    rw [classify_of_range, toNat_arg0_half h, if_neg (by omega), if_neg (by omega), if_neg (by omega)]
  case wide =>
    refine congrArg Host.Outcome.next ?_
    rw [classifyOp, checked_eq_none.2 hv]
    rfl

/-! ### Register ranges (R131) -/

theorem regRange_code (r : BitVec 12) : (regRange r).code =
    if r.toNat = 0 then 0 else if r.toNat ≤ 0x07F then 1 else if r.toNat ≤ 0x0FF then 2
    else if r.toNat ≤ 0x17F then 3 else if r.toNat ≤ 0x1FF then 4 else if r.toNat ≤ 0xEFF then 5 else 6 := by
  simp only [regRange, apply_ite RegRange.code]
  rfl

/-- Settles O26: in each branch of `regRange_code` the range the register number is in gives the one true clause. -/
theorem registerRanges : Obligations.RegisterRanges := by
  rintro r v rfl
  rw [regRange_code]
  split_ifs <;> omega

/-! ### CMD_MAKE_GET, CMD_MAKE_SET, CMD_MAKE_EVENT (R133 to R135) -/

theorem makeRegOp_of_ge (op : BitVec 4) (classBits : Half) {s : State} (h : 0x1000 ≤ s.arg0.toNat) :
    makeRegOp op classBits s = { s with status := statusWord .badOperand false false op } := by
  rw [makeRegOp, checked_eq_none.2 h]
  rfl

/-- Settles O27: the class bits of GET_REG are `0x1` in the high four bits. -/
theorem cmdMakeGetResult : Obligations.CmdMakeGetResult :=
  ⟨fun _ h => congrArg Host.Outcome.next (makeRegOp_eq_of_lt 0x5 0x1 h),
    fun _ h => congrArg Host.Outcome.next (makeRegOp_of_ge 0x5 _ h)⟩

/-- Settles O28: the class bits of SET_REG are `0x4` in the high four bits. -/
theorem cmdMakeSetResult : Obligations.CmdMakeSetResult :=
  ⟨fun _ h => congrArg Host.Outcome.next (makeRegOp_eq_of_lt 0x6 0x4 h),
    fun _ h => congrArg Host.Outcome.next (makeRegOp_of_ge 0x6 _ h)⟩

/-- CMD_MAKE_EVENT of an event code in range (R135). -/
theorem makeEventOp_eq_of_lt {s : State} (h : s.arg0.toNat < 0x100) :
    makeEventOp Config.spec s = { s with
      res0 := BitVec.ofNat 64 (0x8000 + s.arg1.toNat % 128 * 256 + s.arg0.toNat), status := 0x0700 } := by
  have hcode : (0x8000#16 ||| ((wrapped 7 s.arg1).setWidth 16 <<< 8) ||| (s.arg0.setWidth 8).setWidth 16).setWidth 64 =
      BitVec.ofNat 64 (0x8000 + s.arg1.toNat % 128 * 256 + s.arg0.toNat) := by
    have hcounter : (wrapped 7 s.arg1).toNat = s.arg1.toNat % 128 := BitVec.toNat_setWidth ..
    apply BitVec.eq_of_toNat_eq
    rw [BitVec.toNat_setWidth, toNat_eventCode, hcounter, BitVec.toNat_setWidth, Nat.mod_eq_of_lt h, BitVec.toNat_ofNat]
  rw [makeEventOp, checked_eq_some.2 ⟨h, rfl⟩]
  exact congrArg (fun v => (s.setRes0 v).finish 0x7 false false) hcode

theorem makeEventOp_of_ge (c : Config) {s : State} (h : 0x100 ≤ s.arg0.toNat) :
    makeEventOp c s = { s with status := 0x0708 } := by
  rw [makeEventOp, checked_eq_none.2 h]
  rfl

/-- Settles O29: the counter is wrapped, not checked, so the event code alone decides. -/
theorem cmdMakeEventResult : Obligations.CmdMakeEventResult :=
  ⟨fun _ h => congrArg Host.Outcome.next (makeEventOp_eq_of_lt h),
    fun _ h => congrArg Host.Outcome.next (makeEventOp_of_ge _ h)⟩

/-! ### ENCODE and command codes (R137) -/

/-- The checks of ENCODE decide its `STATUS` and, with the end of the records, its `FLEN` (40_frame_codec.md R112,
R113). -/
theorem encodeOp_status_flen (c : Config) (s : State) :
    (encodeOp c s).status = statusWord ((encodeCheck c s).getD .ok) false false 0x1 ∧
    (encodeOp c s).flen =
      if (encodeCheck c s).isSome then 0 else BitVec.ofNat 8 (recordsEnd c s s.pcount.toNat) := by
  rcases encodeOp_cases c s with ⟨e, hcheck, hend⟩ | ⟨hcheck, m, x, -, -, hend⟩
  all_goals
    rw [hend, hcheck]
    exact ⟨rfl, rfl⟩

section
variable {s s' : State} (hplen : s'.ptPLEN = s.ptPLEN)
include hplen

/-- Records are placed by the `PLEN` fields alone (40_frame_codec.md R105). -/
theorem recordOff_of_ptPLEN_eq (c : Config) (k : Nat) : recordOff c s' k = recordOff c s k := by
  induction k with
  | zero => rfl
  | succ k ih => rw [recordOff, recordOff, ih, hplen]

theorem recordsEnd_of_ptPLEN_eq (c : Config) (n : Nat) : recordsEnd c s' n = recordsEnd c s n := by
  rw [recordsEnd, recordsEnd, recordOff_of_ptPLEN_eq hplen, hplen]

/-- The checks of ENCODE read `PCOUNT` and `PLEN` fields only (40_frame_codec.md R106 to R108). -/
theorem encodeCheck_of_ptPLEN_eq (hpcount : s'.pcount = s.pcount) (c : Config) :
    encodeCheck c s' = encodeCheck c s := by
  simp only [encodeCheck, recordsSize, recordsEnd_of_ptPLEN_eq hplen, hplen, hpcount]
  rfl

end

/-- Settles O12: other command codes leave every `PLEN` and `PCOUNT` as they are, and these decide both registers. -/
theorem encodeRefusesNoCommandCode : Obligations.EncodeRefusesNoCommandCode := by
  intro s t cmds ht
  cases ht
  have hplen : State.ptPLEN { s with pt := { s.pt with cmd := cmds } } = s.ptPLEN := rfl
  obtain ⟨hstatus, hflen⟩ := encodeOp_status_flen Config.spec s
  obtain ⟨hstatus', hflen'⟩ := encodeOp_status_flen Config.spec { s with pt := { s.pt with cmd := cmds } }
  rw [encodeCheck_of_ptPLEN_eq hplen rfl] at hstatus' hflen'
  rw [recordsEnd_of_ptPLEN_eq hplen] at hflen'
  exact ⟨_, rfl, hstatus'.trans hstatus.symm, hflen'.trans hflen.symm⟩

end Sys2Proof.Machine
end

section
/-! ## Pipe data command words (42_pipe_marshalling.md R150 to R154)

PIPE_CMD_PACK puts a word together from the fields of the opcode table's row, and PIPE_CMD_UNPACK takes the same fields
out of it (`exec_pipeCmdPack_of_fields`, `exec_pipeCmdUnpack_of_fields`). An operand in range is such a field
zero-extended (`exists_eq_setWidth_of_lt`), so results and laws are both read off these two. -/

namespace Sys2Proof.Machine

/-! ### Operands and fields -/

/-- A checked operand is the zero extension of what it gives (30_encoding.md R82). -/
theorem checked_eq_some_iff_eq_setWidth {n : Nat} (hn : n ≤ 64) {v : Word} {x : BitVec n} :
    checked n v = some x ↔ v = x.setWidth 64 := by
  rw [checked_eq_some, ← BitVec.toNat_inj, ← BitVec.toNat_inj, BitVec.toNat_setWidth, BitVec.toNat_setWidth_of_le hn]
  refine ⟨fun ⟨hv, hx⟩ => (hx.trans (Nat.mod_eq_of_lt hv)).symm, fun h => ?_⟩
  have hv : v.toNat < 2 ^ n := h ▸ x.isLt
  exact ⟨hv, h.symm.trans (Nat.mod_eq_of_lt hv).symm⟩

theorem exists_eq_setWidth_of_lt {n : Nat} (hn : n ≤ 64) {v : Word} (h : v.toNat < 2 ^ n) :
    ∃ x : BitVec n, v = x.setWidth 64 :=
  ⟨v.setWidth n, (checked_eq_some_iff_eq_setWidth hn).1 (checked_eq_some.2 ⟨h, rfl⟩)⟩

/-- Shifted above the other part, a part takes its place in the concatenation. -/
theorem setWidth_or_shiftLeft {m n : Nat} (w : Nat) (x : BitVec m) (y : BitVec n) :
    y.setWidth w ||| (x.setWidth w <<< n) = (x ++ y).setWidth w := by
  ext i hi
  simp only [BitVec.getElem_or, BitVec.getElem_setWidth, BitVec.getElem_shiftLeft, BitVec.getLsbD_append]
  split
  · next h => simp [h]
  · next h => simp [h, BitVec.getLsbD_of_ge y i (by omega)]

/-- The word of R150 is the row of 30_encoding.md R76. -/
theorem pipeWord_eq_append (n : BitVec 5) (k m : BitVec 1) (p : BitVec 9) :
    pipeWord Config.spec n k m p = p ++ m ++ k ++ n := by
  rw [pipeWord_spec, setWidth_or_shiftLeft, setWidth_or_shiftLeft, setWidth_or_shiftLeft, BitVec.append_assoc,
    BitVec.append_assoc]
  exact BitVec.setWidth_eq _

theorem exists_pipeFields (w : Half) :
    ∃ (p : BitVec 9) (m k : BitVec 1) (n : BitVec 5), w = p ++ m ++ k ++ n :=
  ⟨_, _, _, _, (encodeWord_decodePipeWord w).symm⟩

theorem exists_flagFields (f : BitVec 2) : ∃ m k : BitVec 1, f = m ++ k :=
  ⟨_, _, (BitVec.extractLsb'_append_extractLsb' (w := 1) (len := 1)).symm⟩

theorem toNat_flagFields (m k : BitVec 1) : (m ++ k).toNat = m.toNat * 2 + k.toNat := toNat_append_eq_mul_add m k

theorem toNat_pipeFields (p : BitVec 9) (m k : BitVec 1) (n : BitVec 5) :
    (p ++ m ++ k ++ n).toNat = p.toNat * 128 + m.toNat * 64 + k.toNat * 32 + n.toNat := by
  rw [toNat_append_eq_mul_add, toNat_append_eq_mul_add, toNat_append_eq_mul_add]
  omega

/-! ### The two operations on fields -/

section
variable {s : State} {p : BitVec 9} {m k : BitVec 1} {n : BitVec 5}

theorem exec_pipeCmdPack_of_fields (hcounter : s.arg0.setWidth 5 = n) (hport : s.arg1 = p.setWidth 64)
    (hflags : s.arg2 = (m ++ k).setWidth 64) :
    exec .pipeCmdPack s = .next { s with res0 := (p ++ m ++ k ++ n).setWidth 64, status := 0x0800 } := by
  have hnext : pipePackOp Config.spec s =
      (s.setRes0 ((p ++ m ++ k ++ n).setWidth 64)).finish 0x8 false false := by
    rw [pipePackOp_spec, (checked_eq_some_iff_eq_setWidth (by decide)).2 hport,
      (checked_eq_some_iff_eq_setWidth (by decide)).2 hflags]
    simp only [pipeWord_eq_append, wrapped, hcounter, BitVec.extractLsb'_append_eq_left,
      BitVec.extractLsb'_append_eq_right]
  exact congrArg Host.Outcome.next hnext

theorem exec_pipeCmdUnpack_of_fields (hword : s.arg0 = (p ++ m ++ k ++ n).setWidth 64) :
    exec .pipeCmdUnpack s = .next { s with
      res0 := n.setWidth 64, res1 := p.setWidth 64, res2 := (m ++ k).setWidth 64, status := 0x0900 } := by
  have hload : s.setArg0 ((p ++ m ++ k ++ n).setWidth 64) = s := by rw [← hword]; rfl
  have hnext := pipeDataCommandWordsAreUnpacked p m k n s
  rw [← hword] at hnext
  exact (congrArg (exec .pipeCmdUnpack) hload).symm.trans hnext

end

/-! ### What succeeds, and what is refused -/

section
variable {s t : State}

theorem pipeCmdPack_operands (ht : exec .pipeCmdPack s = .next t) (herr : t.err = 0) :
    s.arg1.toNat < 512 ∧ s.arg2.toNat < 4 := by
  cases ht
  rcases pipePackOp_cases Config.spec s with ⟨-, hend⟩ | ⟨p, f, hport, hflags, -⟩
  · rw [hend] at herr
    exact absurd herr (raiseError_err_ne_zero _ _ (by decide))
  · exact ⟨(checked_eq_some.1 hport).1, (checked_eq_some.1 hflags).1⟩

theorem exec_pipeCmdPack_of_ge (h : 512 ≤ s.arg1.toNat ∨ 4 ≤ s.arg2.toNat) :
    exec .pipeCmdPack s = .next { s with status := 0x0808 } := by
  rcases pipePackOp_cases Config.spec s with ⟨-, hend⟩ | ⟨p, f, hport, hflags, -⟩
  · exact congrArg Host.Outcome.next hend
  · have hlt1 : s.arg1.toNat < 512 := (checked_eq_some.1 hport).1
    have hlt2 : s.arg2.toNat < 4 := (checked_eq_some.1 hflags).1
    omega

theorem pipeCmdUnpack_operand (ht : exec .pipeCmdUnpack s = .next t) (herr : t.err = 0) : s.arg0.toNat < 0x10000 := by
  cases ht
  rcases pipeUnpackOp_cases Config.spec s with ⟨-, hend⟩ | ⟨w, hword, -⟩
  · rw [hend] at herr
    exact absurd herr (raiseError_err_ne_zero _ _ (by decide))
  · exact (checked_eq_some.1 hword).1

theorem exec_pipeCmdUnpack_of_ge (h : 0x10000 ≤ s.arg0.toNat) :
    exec .pipeCmdUnpack s = .next { s with status := 0x0908 } := by
  refine congrArg Host.Outcome.next ?_
  rw [pipeUnpackOp, checked_eq_none.2 h]
  rfl

end

theorem exists_packFields {s : State} (hport : s.arg1.toNat < 512) (hflags : s.arg2.toNat < 4) :
    ∃ (p : BitVec 9) (m k : BitVec 1), s.arg1 = p.setWidth 64 ∧ s.arg2 = (m ++ k).setWidth 64 := by
  obtain ⟨p, hp⟩ := exists_eq_setWidth_of_lt (n := 9) (by decide) hport
  obtain ⟨f, hf⟩ := exists_eq_setWidth_of_lt (n := 2) (by decide) hflags
  obtain ⟨m, k, rfl⟩ := exists_flagFields f
  exact ⟨p, m, k, hp, hf⟩

theorem exists_wordFields {v : Word} (h : v.toNat < 0x10000) :
    ∃ (p : BitVec 9) (m k : BitVec 1) (n : BitVec 5), v = (p ++ m ++ k ++ n).setWidth 64 := by
  obtain ⟨w, hw⟩ := exists_eq_setWidth_of_lt (n := 16) (by decide) h
  obtain ⟨p, m, k, n, rfl⟩ := exists_pipeFields w
  exact ⟨p, m, k, n, hw⟩

/-- Settles O34: both operations speak of the same fields, in either order. -/
theorem pipeWordsRoundTrip : Obligations.PipeWordsRoundTrip := by
  refine ⟨fun s t ht herr => ?packOfUnpack, fun s t ht herr => ?unpackOfPack⟩
  case packOfUnpack =>
    obtain ⟨p, m, k, n, hword⟩ := exists_wordFields (pipeCmdUnpack_operand ht herr)
    cases (exec_pipeCmdUnpack_of_fields hword).symm.trans ht
    have hcounter : (n.setWidth 64).setWidth 5 = n := (BitVec.setWidth_setWidth_of_le n (by decide)).trans n.setWidth_eq
    exact ⟨_, exec_pipeCmdPack_of_fields hcounter rfl rfl, by simp [State.err], hword.symm⟩
  case unpackOfPack =>
    obtain ⟨hport, hflags⟩ := pipeCmdPack_operands ht herr
    obtain ⟨p, m, k, hp, hf⟩ := exists_packFields hport hflags
    cases (exec_pipeCmdPack_of_fields rfl hp hf).symm.trans ht
    exact ⟨_, exec_pipeCmdUnpack_of_fields rfl, by simp [State.err], rfl, hp.symm, hf.symm⟩

/-- Settles O32: the fields of the word, each at its weight. -/
theorem pipeCmdPackResult : Obligations.PipeCmdPackResult := by
  refine ⟨fun s hport hflags => ?_, fun s => exec_pipeCmdPack_of_ge⟩
  obtain ⟨p, m, k, hp, hf⟩ := exists_packFields hport hflags
  have hport : s.arg1.toNat = p.toNat := hp ▸ BitVec.toNat_setWidth_of_le (by decide)
  have hflags : s.arg2.toNat = m.toNat * 2 + k.toNat :=
    hf ▸ (BitVec.toNat_setWidth_of_le (by decide)).trans (toNat_flagFields m k)
  have hword : (p ++ m ++ k ++ s.arg0.setWidth 5).toNat =
      s.arg0.toNat % 32 + s.arg2.toNat % 2 * 32 + s.arg2.toNat / 2 * 64 + s.arg1.toNat * 128 := by
    have hcounter : (s.arg0.setWidth 5).toNat = s.arg0.toNat % 32 := BitVec.toNat_setWidth ..
    rw [toNat_pipeFields, hcounter]
    omega
  rw [exec_pipeCmdPack_of_fields rfl hp hf, ← BitVec.ofNat_toNat, hword]

/-- Settles O33: each field as a number, from the weights of the fields in the word. -/
theorem pipeCmdUnpackResult : Obligations.PipeCmdUnpackResult := by
  refine ⟨fun s h => ?_, fun s => exec_pipeCmdUnpack_of_ge⟩
  obtain ⟨p, m, k, n, hw⟩ := exists_wordFields h
  have hword : s.arg0.toNat = p.toNat * 128 + m.toNat * 64 + k.toNat * 32 + n.toNat :=
    hw ▸ (BitVec.toNat_setWidth_of_le (by decide)).trans (toNat_pipeFields p m k n)
  have hcounter : n.toNat = s.arg0.toNat % 32 := by omega
  have hport : p.toNat = s.arg0.toNat / 128 := by omega
  have hflags : (m ++ k).toNat = s.arg0.toNat / 32 % 4 := by
    rw [toNat_flagFields]
    omega
  rw [exec_pipeCmdUnpack_of_fields hw, ← BitVec.ofNat_toNat, ← BitVec.ofNat_toNat, ← BitVec.ofNat_toNat, hcounter,
    hport, hflags]

end Sys2Proof.Machine
end

section
/-! ## Pipe-open payloads (42_pipe_marshalling.md R155 to R158)

The next state of PIPE_OPEN_PACK is `openPacked` (`exec_pipeOpenPack_of_lt`), and two facts about a run of payload bytes
written to an entry (`ptByte_writePayload_inside`, `ptByte_writePayload_outside`) say what its entries hold. The round
trip is the two results put one after the other. -/

namespace Sys2Proof.Machine

/-! ### The bytes of the payload (R155) -/

theorem leBytes_two (v : Half) : leBytes 2 v.toNat = [v.extractLsb' 0 8, v.extractLsb' 8 8] := by
  refine List.ext_getElem (leBytes_length _ _) fun i hi hi' => ?_
  rw [leBytes_getElem_bitVec]
  match i, hi' with
  | 0, _ => rfl
  | 1, _ => rfl

theorem openPayload_eq (d : Word) (port : Half) :
    openPayload d port = leBytes 8 d.toNat ++ [port.extractLsb' 0 8, port.extractLsb' 8 8, 0, 0] := by
  rw [openPayload, leBytes_two, List.append_assoc]
  rfl

/-- The device identifier, least significant byte first. -/
theorem openPayload_devid (d : Word) (port : Half) {i : Nat} (hi : i < 8) :
    (openPayload d port)[i]? = some (d.extractLsb' (8 * i) 8) := by
  have hlen : i < (leBytes 8 d.toNat).length := by rwa [leBytes_length]
  rw [openPayload_eq, List.getElem?_append_left hlen, List.getElem?_eq_getElem hlen, leBytes_getElem_bitVec]

/-- The port and the reserved field. -/
theorem openPayload_rest (d : Word) (port : Half) (i : Nat) :
    (openPayload d port)[8 + i]? = [port.extractLsb' 0 8, port.extractLsb' 8 8, 0, 0][i]? := by
  rw [openPayload_eq, List.getElem?_append_right (by rw [leBytes_length]; omega), leBytes_length,
    Nat.add_sub_cancel_left]

/-! ### A run of payload bytes written from the start of an entry -/

section
variable (s : State) (k : Nat) (bs : List Byte)

theorem ptByte_writePayload_inside (c : Config) {j : Nat} {b : Byte} (h : bs[j]? = some b) :
    (s.setPt (s.pt.writePayload c k 0 bs)).ptByte c k j = b := by
  obtain ⟨hj, rfl⟩ := List.getElem?_eq_some_iff.1 h
  exact congrArg (Option.getD · (Config.unspecPayload s.epoch k j))
    (peek_pokeList_inside s.pt.payload (a := payloadKey c k 0) bs hj)

theorem ptByte_writePayload_outside {k' j : Nat} (hlen : bs.length ≤ 236) (hj : j < 236)
    (h : k' ≠ k ∨ bs.length ≤ j) :
    (s.setPt (s.pt.writePayload Config.spec k 0 bs)).ptByte Config.spec k' j = s.ptByte Config.spec k' j := by
  refine congrArg (Option.getD · (Config.unspecPayload s.epoch k' j)) (peek_pokeList_outside _ _ ?_)
  simp only [payloadKey, spec_maxPayload]
  omega

end

/-! ### PIPE_OPEN_PACK (R156) -/

/-- The next state of a successful PIPE_OPEN_PACK. -/
def openPacked (s : State) : State :=
  (s.setPt ((s.pt.writePayload Config.spec s.arg2.toNat 0 (openPayload s.arg0 (s.arg1.setWidth 16))).writePLEN
    s.arg2.toNat 12)).finish 0xA false false

section
variable {s : State}

theorem exec_pipeOpenPack_of_lt (hport : s.arg1.toNat < 512) (hentry : s.arg2.toNat < 60) :
    exec .pipeOpenPack s = .next (openPacked s) := by
  have hwidth : (s.arg1.setWidth 9).setWidth 16 = s.arg1.setWidth 16 := by
    apply BitVec.eq_of_toNat_eq
    simp only [BitVec.toNat_setWidth]
    omega
  have hchecked : checked Config.spec.pipePortBits s.arg1 = some (s.arg1.setWidth 9) := checked_eq_some.2 ⟨hport, rfl⟩
  refine congrArg Host.Outcome.next ?_
  rw [openPackOp, hchecked, entryOperand_eq_some.2 ⟨rfl, hentry⟩, openPacked, ← hwidth]
  rfl

theorem exec_pipeOpenPack_of_ge (h : 512 ≤ s.arg1.toNat ∨ 60 ≤ s.arg2.toNat) :
    exec .pipeOpenPack s = .next { s with status := 0x0A08 } := by
  rcases openPackOp_cases Config.spec s with ⟨-, hend⟩ | ⟨p, k, hport, hentry, -⟩
  · exact congrArg Host.Outcome.next hend
  · have hlt1 : s.arg1.toNat < 512 := (checked_eq_some.1 hport).1
    have hlt2 : s.arg2.toNat < 60 := (entryOperand_eq_some.1 hentry).2
    omega

theorem pipeOpenPack_operands {t : State} (ht : exec .pipeOpenPack s = .next t) (herr : t.err = 0) :
    s.arg1.toNat < 512 ∧ s.arg2.toNat < 60 := by
  cases ht
  rcases openPackOp_cases Config.spec s with ⟨-, hend⟩ | ⟨p, k, hport, hentry, -⟩
  · rw [hend] at herr
    exact absurd herr (raiseError_err_ne_zero _ _ (by decide))
  · exact ⟨(checked_eq_some.1 hport).1, (entryOperand_eq_some.1 hentry).2⟩

theorem openPacked_ptPLEN (k : Nat) :
    (openPacked s).ptPLEN k = if k = s.arg2.toNat then 12 else s.ptPLEN k :=
  ptPLEN_writePLEN s s.arg2.toNat k 12

theorem openPacked_ptByte {j : Nat} {b : Byte} (h : (openPayload s.arg0 (s.arg1.setWidth 16))[j]? = some b) :
    (openPacked s).ptByte Config.spec s.arg2.toNat j = b :=
  ptByte_writePayload_inside s s.arg2.toNat _ Config.spec h

theorem openPacked_ptByte_outside {k j : Nat} (hj : j < 236) (h : k ≠ s.arg2.toNat ∨ 12 ≤ j) :
    (openPacked s).ptByte Config.spec k j = s.ptByte Config.spec k j := by
  have hlen := openPayload_length s.arg0 (s.arg1.setWidth 16)
  exact ptByte_writePayload_outside s s.arg2.toNat _ (by omega) hj (by omega)

end

/-- Settles O35: the payload bytes are read off `openPayload`, and nothing else of `PT` is written. -/
theorem pipeOpenPackResult : Obligations.PipeOpenPackResult := by
  refine ⟨?_, fun s => exec_pipeOpenPack_of_ge⟩
  rintro s k rfl hport hentry
  refine ⟨openPacked s, exec_pipeOpenPack_of_lt hport hentry, rfl, (openPacked_ptPLEN _).trans (if_pos rfl),
    fun k' hk' => (openPacked_ptPLEN k').trans (if_neg hk'), fun i hi => openPacked_ptByte (openPayload_devid _ _ hi),
    ?portLow, ?portHigh, openPacked_ptByte (openPayload_rest _ _ 2), openPacked_ptByte (openPayload_rest _ _ 3),
    fun k' j => openPacked_ptByte_outside⟩
  case portLow =>
    exact (openPacked_ptByte (openPayload_rest _ _ 0)).trans (BitVec.extractLsb'_setWidth_of_le (by decide))
  case portHigh =>
    exact (openPacked_ptByte (openPayload_rest _ _ 1)).trans (BitVec.extractLsb'_setWidth_of_le (by decide))

/-! ### PIPE_OPEN_UNPACK (R157) -/

/-- Two bytes as a 64-bit value. -/
theorem ofNat_leValue_two (lo hi : Byte) : BitVec.ofNat 64 (leValue [lo, hi]) = (hi ++ lo).setWidth 64 := by
  have hvalue : (hi ++ lo).toNat = leValue [lo, hi] := by
    rw [toNat_append_eq_mul_add, leValue, leValue, leValue]
    omega
  rw [← hvalue, BitVec.ofNat_toNat]

/-- Eight bytes as a 64-bit value. -/
theorem ofNat_leValue_eight (b : Nat → Byte) : BitVec.ofNat 64 (leValue ((List.range 8).map b)) =
    b 7 ++ b 6 ++ b 5 ++ b 4 ++ b 3 ++ b 2 ++ b 1 ++ b 0 := by
  have hrange : (List.range 8).map b = [b 0, b 1, b 2, b 3, b 4, b 5, b 6, b 7] := rfl
  have hlast (x : Byte) : BitVec.ofNat 8 (leValue [x]) = x := BitVec.ofNat_toNat 8 x
  rw [hrange, ofNat_leValue_cons 56, ofNat_leValue_cons 48, ofNat_leValue_cons 40, ofNat_leValue_cons 32,
    ofNat_leValue_cons 24, ofNat_leValue_cons 16, ofNat_leValue_cons 8, hlast]

/-- The bytes of a 64-bit value put together again. -/
theorem append_wordBytes {b : Nat → Byte} {d : Word} (h : ∀ i < 8, b i = d.extractLsb' (8 * i) 8) :
    b 7 ++ b 6 ++ b 5 ++ b 4 ++ b 3 ++ b 2 ++ b 1 ++ b 0 = d := by
  have hbytes : (List.range 8).map b = leBytes 8 d.toNat := by
    refine List.ext_getElem (by simp) fun i hi hi' => ?_
    rw [leBytes_getElem_bitVec, List.getElem_map, List.getElem_range, h i (by rwa [leBytes_length] at hi')]
  have hvalue : leValue (leBytes 8 d.toNat) = d.toNat := (leValue_leBytes 8 _).trans (Nat.mod_eq_of_lt d.isLt)
  rw [← ofNat_leValue_eight, hbytes, hvalue, BitVec.ofNat_toNat, BitVec.setWidth_eq]

theorem statusWord_porthiFlag (port : Half) : statusWord .ok false (porthiFlag Config.spec port) 0xB =
    if 512 ≤ port.toNat then 0x0B20 else 0x0B00 := by
  by_cases h : 512 ≤ port.toNat
  · have hflag : porthiFlag Config.spec port = true := decide_eq_true h
    rw [hflag, if_pos h]
    rfl
  · have hflag : porthiFlag Config.spec port = false := decide_eq_false h
    rw [hflag, if_neg h]
    rfl

section
variable {s : State} {k : Nat} {b : Nat → Byte}

/-- The fields of the payload, each its bytes put together. -/
theorem openUnpackOp_of_whole (hk : entryOperand Config.spec s.arg2 = some k) (hb : b = s.ptByte Config.spec k)
    (hplen : 12 ≤ (s.ptPLEN k).toNat) : openUnpackOp Config.spec s =
      (((s.setRes0 (b 7 ++ b 6 ++ b 5 ++ b 4 ++ b 3 ++ b 2 ++ b 1 ++ b 0)).setRes1 ((b 9 ++ b 8).setWidth 64)).setRes2
        ((b 11 ++ b 10).setWidth 64)).finish 0xB false (porthiFlag Config.spec (b 9 ++ b 8)) := by
  subst hb
  rcases openUnpackOp_cases Config.spec s with ⟨hnone, -⟩ | ⟨k', hk', hshort, -⟩ |
    ⟨k', d, port, r, hk', -, rfl, rfl, rfl, hend⟩
  case inl => cases hk.symm.trans hnone
  case inr.inl =>
    cases hk.symm.trans hk'
    omega
  case inr.inr =>
    cases hk.symm.trans hk'
    rw [hend, ofNat_leValue_eight]
    simp only [List.range_succ, List.range_zero, List.nil_append, List.cons_append, List.map_cons, List.map_nil,
      leValue_two, ofNat_leValue_two]

end

/-- Settles O36: two checks refuse; past them each field is its bytes put together. -/
theorem pipeOpenUnpackResult : Obligations.PipeOpenUnpackResult := by
  rintro s k b rfl hb
  refine ⟨fun hk hplen => ?whole, fun hk hplen => ?short, fun hk => ?entry⟩ <;> refine congrArg Host.Outcome.next ?_
  case whole =>
    rw [openUnpackOp_of_whole (entryOperand_eq_some.2 ⟨rfl, hk⟩) hb hplen, State.finish, statusWord_porthiFlag]
    rfl
  case short =>
    rw [openUnpackOp, entryOperand_eq_some.2 ⟨rfl, hk⟩]
    exact if_pos hplen
  case entry =>
    rw [openUnpackOp, entryOperand_eq_none.2 hk]
    rfl

/-- Settles O37: PIPE_OPEN_UNPACK puts together the bytes PIPE_OPEN_PACK has taken apart, and the port is below 512. -/
theorem pipeOpenRoundTrip : Obligations.PipeOpenRoundTrip := by
  intro s t r ht herr hentry hplen hbytes
  obtain ⟨hport, hk⟩ := pipeOpenPack_operands ht herr
  obtain ⟨t', ht', -, htwelve, -, hdevid, hlow, hhigh, hzero, hzero', -⟩ :=
    pipeOpenPackResult.1 s s.arg2.toNat rfl hport hk
  cases ht.symm.trans ht'
  have hlen : 12 ≤ (r.ptPLEN s.arg2.toNat).toNat := by rw [hplen, htwelve]; decide
  have hend := openUnpackOp_of_whole (entryOperand_eq_some.2 ⟨congrArg BitVec.toNat hentry.symm, hentry ▸ hk⟩) rfl hlen
  have hword : s.arg1.extractLsb' 8 8 ++ s.arg1.extractLsb' 0 8 = s.arg1.setWidth 16 :=
    (BitVec.extractLsb'_append_extractLsb'_eq_extractLsb' rfl).trans (BitVec.setWidth_eq_extractLsb' (by decide)).symm
  have hvalue : (s.arg1.setWidth 16).toNat = s.arg1.toNat := by
    rw [BitVec.toNat_setWidth]
    omega
  rw [append_wordBytes fun i hi => (hbytes i (by omega)).trans (hdevid i hi), hbytes 8 (by decide),
    hbytes 9 (by decide), hbytes 10 (by decide), hbytes 11 (by decide), hlow, hhigh, hzero, hzero', hword] at hend
  refine ⟨_, congrArg Host.Outcome.next hend, finish_err _ _ _ _, rfl, ?res1, rfl, ?porthi⟩
  case res1 =>
    apply BitVec.eq_of_toNat_eq
    exact (BitVec.toNat_setWidth_of_le (by decide)).trans hvalue
  case porthi =>
    refine (statusWord_porthi _ _ _ _).trans (decide_eq_false ?_)
    rw [hvalue]
    exact Nat.not_le.2 hport

end Sys2Proof.Machine
end

section
/-! ## Nothing stops the unit (60_exceptions.md R201, R205)

The only way a step could stop is through the instruction it runs: every other request is answered by a host access or
the reset, which are total (`perform_answers`). And no instruction stops (`exec_answers`). -/

namespace Sys2Proof.Machine

/-- The meaning of every instruction is a total function of the state, a refusing operation's included: it reports in
`STATUS.ERR` (R201). -/
theorem exec_answers (i : Instr) (s : State) : ∃ t, exec i s = .next t := by
  cases i <;> exact ⟨_, rfl⟩

section
variable (c : Config) {run : Runner} (hrun : ∀ i s, ∃ t, run i s = .next t)
include hrun

/-- Only a write to `OPREG` and the two wire requests run an instruction. -/
theorem perform_answers (a : HostAccess) (s : State) : ∃ t, perform c run a s = .next t := by
  cases a with
  | writeReg n v =>
    by_cases hn : n = 0x0F
    · rw [hn, perform_opreg]
      exact hrun _ s
    · rw [perform_writeReg_ne _ _ hn]
      exact ⟨_, rfl⟩
  | wireCommand w => exact hrun (decodeServiceCommand w) s
  | wirePipe w => exact hrun (decodePipeWord w) s
  | readReg | readFB | writeFB | readPT | writePT | readPTByte | writePTByte | reset => exact ⟨_, rfl⟩

theorem performNext_answers (s : State) : ∃ t, performNext c run s = .next t := by
  rcases performNext_cases c run s with ⟨-, hidle⟩ | ⟨a, q, -, hrequest⟩
  · exact ⟨s, hidle⟩
  · rw [hrequest]
    exact perform_answers c hrun a (s.setHostq q)

end

/-- Settles O3: a step of the unit performs a request with `exec`, and `exec` always answers. -/
theorem nothingStopsTheUnit : Obligations.NothingStopsTheUnit :=
  ⟨exec_answers, performNext_answers Config.spec exec_answers⟩

end Sys2Proof.Machine
end

section
/-! ## Reset (70_reset_and_hazards.md R220, R221)

After reset every register is 0, so the result of each operation is its rule at operands 0. Only PIPE_OPEN_UNPACK reads
a free value there, the `PLEN` of entry 0. -/

namespace Sys2Proof.Machine

/-- Settles O46: the request is a reset, and `resetUnit` is the state after reset with the model's own fields. -/
theorem resetSetsEveryRegister : Obligations.ResetSetsEveryRegister := fun s q => step_request s .reset q

theorem canonical_nil (w n : Nat) : Canonical ([] : Memory w) n := ⟨rfl, rfl⟩

/-- Settles O51: nothing is listed in a memory, and a `STATUS` of 0 is legal. -/
theorem resetIsLegal : Obligations.ResetIsLegal :=
  State.wf_iff.2 ⟨canonical_nil 8 252,
    ⟨canonical_nil 8 60, canonical_nil 16 60, canonical_nil 8 60, canonical_nil 8 (60 * 236)⟩, by decide⟩

/-- The one operation whose result after reset hangs on a free value. -/
theorem exec_pipeOpenUnpack_reset : ∃ t, exec .pipeOpenUnpack State.reset = .next t ∧
    t.err = if (State.reset.ptPLEN 0).toNat < 12 then 9 else 0 := by
  obtain ⟨hwhole, hshort, -⟩ := pipeOpenUnpackResult State.reset 0 _ rfl rfl
  by_cases hplen : (State.reset.ptPLEN 0).toNat < 12
  case pos =>
    rw [if_pos hplen]
    exact ⟨_, hshort (by decide) hplen, rfl⟩
  case neg =>
    rw [if_neg hplen]
    refine ⟨_, hwhole (by decide) (Nat.le_of_not_lt hplen), ?_⟩
    rw [State.err]
    split <;> rfl

/-- Settles O47: the rule of each operation at the operands reset leaves. -/
theorem operationsRightAfterReset : Obligations.OperationsRightAfterReset := by
  obtain ⟨-, hdecode, -⟩ := decodeRefusesLengthsInOrder State.reset 0 _ rfl rfl
  obtain ⟨-, hencode, -⟩ := encodeRefusesInOrder State.reset
  obtain ⟨-, -, -, hclassify, -⟩ := cmdClassifyResult State.reset 0 rfl
  refine ⟨hdecode (by decide), hencode rfl, crcOperationResult.1 _ (by decide) (by decide),
    hclassify (.inl (by decide)), cmdMakeGetResult.1 _ (by decide), cmdMakeSetResult.1 _ (by decide),
    cmdMakeEventResult.1 _ (by decide), pipeCmdPackResult.1 _ (by decide) (by decide),
    pipeCmdUnpackResult.1 _ (by decide), ?pipeOpenPack, exec_pipeOpenUnpack_reset⟩
  case pipeOpenPack =>
    exact ⟨_, exec_pipeOpenPack_of_lt (by decide) (by decide), finish_err _ _ _ _,
      (openPacked_ptPLEN 0).trans (if_pos rfl)⟩

end Sys2Proof.Machine
end

section
/-! ## The codes the host keeps off the wire (70_reset_and_hazards.md R224, 30_encoding.md R75; log 17) -/

namespace Sys2Proof.Machine

theorem regRange_eq_reserved_iff (r : BitVec 12) : regRange r = .reserved ↔ 0xF00 ≤ r.toNat := by
  unfold regRange
  split_ifs <;> simp only [false_iff, true_iff] <;> omega

/-- The register field of a code is of range `RESERVED`. -/
theorem registerField_reserved_iff (code : Half) :
    (regRange (code.extractLsb' 0 12) == .reserved) = true ↔ 0xF00 ≤ code.toNat % 4096 := by
  rw [beq_iff_eq, regRange_eq_reserved_iff, BitVec.extractLsb'_toNat, Nat.shiftRight_zero]

/-- Settles O31: in each branch of `classify_of_range` the class decides whether the register field counts. -/
theorem codesKeptOffTheWire : Obligations.CodesKeptOffTheWire := by
  intro code
  rw [keptOffTheWire, classify_of_range]
  by_cases hevent : 0x8000 ≤ code.toNat
  · rw [if_pos hevent]
    simp only [Bool.false_eq_true, false_iff]
    omega
  rw [if_neg hevent]
  by_cases hset : 0x4000 ≤ code.toNat ∧ code.toNat < 0x8000
  · rw [if_pos hset]
    exact (registerField_reserved_iff code).trans (and_iff_right (.inr hset)).symm
  rw [if_neg hset]
  by_cases hget : 0x1000 ≤ code.toNat ∧ code.toNat < 0x2000
  · rw [if_pos hget]
    exact (registerField_reserved_iff code).trans (and_iff_right (.inl hget)).symm
  · rw [if_neg hget]
    simp only [Bool.false_eq_true, false_iff]
    exact fun ⟨hrange, _⟩ => hrange.elim hget hset

end Sys2Proof.Machine
end

section
/-! ## What an operation with written operands reads (70_reset_and_hazards.md R222, 10_state.md R37)

The epoch enters a state's behaviour only as the index of the free values of unwritten memory (log 3), and a cell that
has been written reads the same in every epoch (`written_getD_eq`). So the operands of ENCODE and DECODE, which
`SamePackets` and `SameFrame` name, are those of the state in any other epoch, and CRC and PIPE_OPEN_UNPACK read the
same bytes. An operation that needs no operand written refuses before it reads any; the remaining ones read no memory. -/

namespace Sys2Proof.Machine

/-- `s` with the free values of another epoch. -/
def State.withEpoch (s : State) (e : Nat) : State := { s with epoch := e }

/-- Instruction `i` does the same from `s` in every epoch. -/
def IgnoresEpoch (i : Instr) (s : State) : Prop :=
  ∀ e t, exec i s = .next t → exec i (s.withEpoch e) = .next (t.withEpoch e)

theorem ignoresEpoch_of_next {i : Instr} {s t : State}
    (h : ∀ e, exec i (s.withEpoch e) = .next (t.withEpoch e)) : IgnoresEpoch i s := by
  intro e u hu
  cases (h s.epoch).symm.trans hu
  exact h e

/-! ### Memory that has been written -/

/-- A cell that has been written never shows the free value of the place. -/
theorem written_getD_eq {w a n b : Nat} {m : Memory w} (h : Memory.written m a n = true) (hlo : a ≤ b)
    (hhi : b < a + n) (d d' : BitVec w) : (Memory.peek m b).getD d' = (Memory.peek m b).getD d := by
  rw [Memory.written, List.all_eq_true] at h
  have hsome := h (b - a) (List.mem_range.2 (by omega))
  rw [Nat.add_sub_cancel' hlo] at hsome
  obtain ⟨v, hv⟩ := Option.isSome_iff_exists.1 hsome
  rw [hv, Option.getD_some, Option.getD_some]

section
variable {s : State} (e : Nat)

theorem fbByte_withEpoch {a n b : Nat} (h : Memory.written s.fb a n = true) (hlo : a ≤ b) (hhi : b < a + n) :
    (s.withEpoch e).fbByte b = s.fbByte b :=
  written_getD_eq h hlo hhi _ _

theorem fbRange_withEpoch {a n : Nat} (h : Memory.written s.fb a n = true) :
    (s.withEpoch e).fbRange a n = s.fbRange a n :=
  List.map_congr_left fun i hi =>
    fbByte_withEpoch e h (Nat.le_add_right a i) (Nat.add_lt_add_left (List.mem_range.1 hi) a)

theorem ptByte_withEpoch {k n j : Nat} (h : Memory.written s.pt.payload (payloadKey Config.spec k 0) n = true)
    (hj : j < n) : (s.withEpoch e).ptByte Config.spec k j = s.ptByte Config.spec k j :=
  written_getD_eq h (Nat.le_add_right _ j) (Nat.add_lt_add_left hj _) _ _

end

/-! ### The operands R222 lists -/

section
variable {c : Config} {s : State}

theorem initialised_encode_iff : initialised c .encode s = true ↔
    c.ptEntries < s.pcount.toNat ∨
      (Memory.written s.pt.si 0 s.pcount.toNat = true ∧ Memory.written s.pt.cmd 0 s.pcount.toNat = true ∧
        Memory.written s.pt.plen 0 s.pcount.toNat = true ∧
        ∀ k < s.pcount.toNat, Memory.written s.pt.payload (payloadKey c k 0) (payloadLength c s k) = true) := by
  simp only [initialised, Bool.or_eq_true, decide_eq_true_eq, Bool.and_eq_true, List.all_eq_true, List.mem_range,
    and_assoc]

theorem initialised_decode_iff : initialised c .decode s = true ↔
    c.fbSize < s.flen.toNat ∨ Memory.written s.fb 0 s.flen.toNat = true := by
  simp only [initialised, Bool.or_eq_true, decide_eq_true_eq]

theorem initialised_crc_iff : initialised c .crc s = true ↔
    c.fbSize < s.arg0.toNat + s.arg1.toNat ∨ Memory.written s.fb s.arg0.toNat s.arg1.toNat = true := by
  simp only [initialised, Bool.or_eq_true, decide_eq_true_eq]

theorem initialised_pipeOpenUnpack_iff : initialised c .pipeOpenUnpack s = true ↔
    c.ptEntries ≤ s.arg2.toNat ∨ (Memory.written s.pt.plen s.arg2.toNat 1 = true ∧
      Memory.written s.pt.payload (payloadKey c s.arg2.toNat 0) 12 = true) := by
  simp only [initialised, Bool.or_eq_true, decide_eq_true_eq, Bool.and_eq_true]

end

/-! ### The operations that read memory -/

section
variable {s : State}

/-- The packets below `PCOUNT` are the same in every epoch, when their fields and payloads have been written. -/
theorem samePackets_withEpoch (e : Nat) (hsi : Memory.written s.pt.si 0 s.pcount.toNat = true)
    (hcmd : Memory.written s.pt.cmd 0 s.pcount.toNat = true)
    (hplen : Memory.written s.pt.plen 0 s.pcount.toNat = true)
    (hpayload : ∀ k < s.pcount.toNat,
      Memory.written s.pt.payload (payloadKey Config.spec k 0) (s.ptPLEN k).toNat = true) :
    SamePackets s (s.withEpoch e) where
  pcount := rfl
  fflags := rfl
  devid := rfl
  si k hk := written_getD_eq hsi (Nat.zero_le k) (by omega) _ _
  cmd k hk := written_getD_eq hcmd (Nat.zero_le k) (by omega) _ _
  plen k hk := written_getD_eq hplen (Nat.zero_le k) (by omega) _ _
  payload k hk _ hj := ptByte_withEpoch e (hpayload k hk) hj

/-- With a `PLEN` above 236 the payload of the entry need not be written (log 18), and ENCODE refuses by that `PLEN`. -/
theorem encode_ignoresEpoch (h : initialised Config.spec .encode s = true) : IgnoresEpoch .encode s := by
  by_cases hcount : 60 < s.pcount.toNat
  · exact ignoresEpoch_of_next (t := (s.setFlen 0).setStatus 0x0108) fun e =>
      (encodeRefusesInOrder (s.withEpoch e)).1 hcount
  obtain ⟨hsi, hcmd, hplen, hpayload⟩ := (initialised_encode_iff.1 h).resolve_left hcount
  by_cases hlong : ∃ k < s.pcount.toNat, 236 < (s.ptPLEN k).toNat
  · obtain ⟨k, hk, hlong⟩ := hlong
    refine ignoresEpoch_of_next (t := (s.setFlen 0).setStatus 0x0106) fun e => ?_
    have hsame : (s.withEpoch e).ptPLEN k = s.ptPLEN k := written_getD_eq hplen (Nat.zero_le k) (by omega) _ _
    obtain ⟨-, -, hrefuse, -⟩ := encodeRefusesInOrder (s.withEpoch e)
    exact hrefuse (Nat.le_of_not_lt hcount) ⟨k, hk, hsame ▸ hlong⟩
  · refine ignoresEpoch_of_next (t := encodeOp Config.spec s) fun e => congrArg Host.Outcome.next ?_
    have hsame : SamePackets s (s.withEpoch e) := samePackets_withEpoch e hsi hcmd hplen fun k hk => by
      have hshort : (s.ptPLEN k).toNat ≤ 236 := Nat.le_of_not_lt fun hl => hlong ⟨k, hk, hl⟩
      have hwritten := hpayload k hk
      rwa [payloadLength, spec_maxPayload, Nat.min_eq_left hshort] at hwritten
    rcases hsame.encodeOp_eq with ⟨err, hs, hs'⟩ | ⟨m, m', x, len, hs, hs', -, hm⟩
    · rw [hs, hs']; rfl
    · rw [hs, hs', hm rfl]; rfl

theorem decode_ignoresEpoch (h : initialised Config.spec .decode s = true) : IgnoresEpoch .decode s := by
  rcases initialised_decode_iff.1 h with hlong | hwritten
  · exact ignoresEpoch_of_next (t := (s.setPcount 0).setStatus 0x0208) fun e =>
      (decodeRefusesLengthsInOrder (s.withEpoch e) _ _ rfl rfl).1 hlong
  · refine ignoresEpoch_of_next (t := decodeFrame Config.spec s) fun e => congrArg Host.Outcome.next ?_
    have hsame : SameFrame s (s.withEpoch e) :=
      ⟨rfl, fun a ha => fbByte_withEpoch e hwritten (Nat.zero_le a) (by omega)⟩
    rcases hsame.decodeFrame_eq with ⟨err, hs, hs'⟩ | ⟨x, err, hs, hs'⟩ | ⟨x, d, f, n, rs, trail, hs, hs'⟩ <;>
      rw [hs, hs'] <;> rfl

theorem crc_ignoresEpoch (h : initialised Config.spec .crc s = true) : IgnoresEpoch .crc s := by
  by_cases hrange : s.arg0.toNat ≤ 252 ∧ s.arg1.toNat ≤ 252 - s.arg0.toNat
  case pos =>
    obtain ⟨ha, hn⟩ := hrange
    have hwritten := (initialised_crc_iff.1 h).resolve_left (show ¬252 < s.arg0.toNat + s.arg1.toNat by omega)
    refine ignoresEpoch_of_next (t := crcOp Config.spec s) fun e => congrArg Host.Outcome.next ?_
    have hbytes : (s.withEpoch e).fbRange (s.withEpoch e).arg0.toNat (s.withEpoch e).arg1.toNat =
        s.fbRange s.arg0.toNat s.arg1.toNat := fbRange_withEpoch e hwritten
    rw [crcOp_of_range (s := s.withEpoch e) ha hn, crcOp_of_range ha hn, hbytes]
    rfl
  case neg =>
    have houtside : 252 < s.arg0.toNat ∨ 252 - s.arg0.toNat < s.arg1.toNat := by omega
    exact ignoresEpoch_of_next (t := s.setStatus 0x0308) fun e => crcOperationResult.2 (s.withEpoch e) houtside

theorem pipeOpenUnpack_ignoresEpoch (h : initialised Config.spec .pipeOpenUnpack s = true) :
    IgnoresEpoch .pipeOpenUnpack s := by
  by_cases hentry : 60 ≤ s.arg2.toNat
  · refine ignoresEpoch_of_next (t := s.setStatus 0x0B08) fun e => ?_
    obtain ⟨-, -, hrefuse⟩ := pipeOpenUnpackResult (s.withEpoch e) _ _ rfl rfl
    exact hrefuse hentry
  obtain ⟨hwritten, hpayload⟩ := (initialised_pipeOpenUnpack_iff.1 h).resolve_left hentry
  refine ignoresEpoch_of_next (t := openUnpackOp Config.spec s) fun e => congrArg Host.Outcome.next ?_
  have hoperand : entryOperand Config.spec s.arg2 = some s.arg2.toNat :=
    entryOperand_eq_some.2 ⟨rfl, Nat.lt_of_not_le hentry⟩
  have hoperand' : entryOperand Config.spec (s.withEpoch e).arg2 = some s.arg2.toNat := hoperand
  have hplen : (s.withEpoch e).ptPLEN s.arg2.toNat = s.ptPLEN s.arg2.toNat :=
    written_getD_eq hwritten le_rfl (Nat.lt_succ_self _) _ _
  have hfield {a n : Nat} (hend : a + n ≤ 12) :
      ((List.range n).map fun i => (s.withEpoch e).ptByte Config.spec s.arg2.toNat (a + i)) =
        (List.range n).map fun i => s.ptByte Config.spec s.arg2.toNat (a + i) :=
    List.map_congr_left fun i hi => ptByte_withEpoch e hpayload (by have := List.mem_range.1 hi; omega)
  simp only [openUnpackOp, hoperand, hoperand', hplen, hfield (a := 0) (n := 8) (by decide),
    hfield (a := 8) (n := 2) (by decide), hfield (a := 10) (n := 2) (by decide)]
  split <;> rfl

end

/-! ### The operations that read `ARG` registers only -/

section
variable (c : Config) (s : State) (e : Nat)

theorem classifyOp_withEpoch : classifyOp c (s.withEpoch e) = (classifyOp c s).withEpoch e := by
  simp only [classifyOp, State.withEpoch]
  cases checked 16 s.arg0 <;> rfl

theorem makeRegOp_withEpoch (op : BitVec 4) (classBits : Half) :
    makeRegOp op classBits (s.withEpoch e) = (makeRegOp op classBits s).withEpoch e := by
  simp only [makeRegOp, State.withEpoch]
  cases checked 12 s.arg0 <;> rfl

theorem makeEventOp_withEpoch : makeEventOp c (s.withEpoch e) = (makeEventOp c s).withEpoch e := by
  simp only [makeEventOp, State.withEpoch]
  cases checked 8 s.arg0 <;> rfl

theorem pipePackOp_withEpoch : pipePackOp c (s.withEpoch e) = (pipePackOp c s).withEpoch e := by
  simp only [pipePackOp, State.withEpoch]
  cases checked c.pipePortBits s.arg1 <;> cases checked 2 s.arg2 <;> rfl

theorem pipeUnpackOp_withEpoch : pipeUnpackOp c (s.withEpoch e) = (pipeUnpackOp c s).withEpoch e := by
  simp only [pipeUnpackOp, State.withEpoch]
  cases checked 16 s.arg0 <;> rfl

/-- PIPE_OPEN_PACK writes `PT` and reads nothing of it (42_pipe_marshalling.md R156). -/
theorem openPackOp_withEpoch : openPackOp c (s.withEpoch e) = (openPackOp c s).withEpoch e := by
  simp only [openPackOp, State.withEpoch]
  cases checked c.pipePortBits s.arg1 <;> cases entryOperand c s.arg2 <;> rfl

end

/-- Settles O48: the epoch is read by the four operations R222 names alone, and these read written memory. -/
theorem initialisedOperationsIgnoreUnspecifiedBytes : Obligations.InitialisedOperationsIgnoreUnspecifiedBytes := by
  intro i s t e h ht
  cases i with
  | encode => exact encode_ignoresEpoch h e t ht
  | decode => exact decode_ignoresEpoch h e t ht
  | crc => exact crc_ignoresEpoch h e t ht
  | pipeOpenUnpack => exact pipeOpenUnpack_ignoresEpoch h e t ht
  | nop | illegalOp => cases ht; rfl
  | cmdClassify => cases ht; exact congrArg Host.Outcome.next (classifyOp_withEpoch _ s e)
  | cmdMakeGet | cmdMakeSet => cases ht; exact congrArg Host.Outcome.next (makeRegOp_withEpoch s e _ _)
  | cmdMakeEvent => cases ht; exact congrArg Host.Outcome.next (makeEventOp_withEpoch _ s e)
  | pipeCmdPack => cases ht; exact congrArg Host.Outcome.next (pipePackOp_withEpoch _ s e)
  | pipeCmdUnpack => cases ht; exact congrArg Host.Outcome.next (pipeUnpackOp_withEpoch _ s e)
  | pipeOpenPack => cases ht; exact congrArg Host.Outcome.next (openPackOp_withEpoch _ s e)
  | serviceCommandEvent | serviceCommandSetReg | serviceCommandGetReg | serviceCommandOther0 |
      serviceCommandOther2 | serviceCommandOther3 =>
    cases ht
    exact congrArg Host.Outcome.next (classifyOp_withEpoch _ (s.setArg0 _) e)
  | pipeDataCommandWord =>
    cases ht
    exact congrArg Host.Outcome.next (pipeUnpackOp_withEpoch _ (s.setArg0 _) e)

end Sys2Proof.Machine
end
